-- ==== Sys2Proof/Word.lean ====
section
/-! DEFINITION. The word types of the VSP core: a packed ByteSil is one byte (10_state.md R12), an address and
`pc` are 32 bits (20_memory.md R40, 10_state.md R15), and a register index is one of sixteen (R11). -/

namespace Sys2Proof

/-- One packed ByteSil, or any other byte of code or operand (10_state.md R12). -/
abbrev Byte := BitVec 8

/-- A full address; also the width of `pc`, `FP` and `FAULT.info` (20_memory.md R40). -/
abbrev Addr := BitVec 32

/-- A register `R0` to `RF`, which is layer `L0` to `LF`; also every other index modulo 16: a rotation
count, the end of a layer range, a sensor or actuator slot (10_state.md R11, 30_encoding.md R82). -/
abbrev Reg := Fin 16

end Sys2Proof
end

