-- ==== Sys2Proof/Machine/ByteSil.lean ====
section
/-! DEFINITION. The ByteSil and the log-polar operations of the arithmetic unit as pure functions: integers in,
one narrowing at the end (10_state.md R12; 42_arithmetic.md R141, R142). An operation answers the packed result
and its overflow bit. -/

namespace Sys2Proof.Machine

/-- `rho(b) = b[7:4] - 8` (R12). -/
def rho (b : Byte) : Int := (b.toNat / 16 : Nat) - 8

/-- `theta(b) = b[3:0]` (R12). -/
def theta (b : Byte) : Int := (b.toNat % 16 : Nat)

/-- `pack(r, t) = ((r + 8) << 4) + (t mod 16)`, for `r` in -8 to 7 (R12). -/
def pack (r t : Int) : Byte := BitVec.ofNat 8 ((r + 8).toNat * 16 + (t % 16).toNat)

/-- The canonical NULL (10_state.md R13). -/
def null : Byte := 0x00

/-- The byte ONE (R13). -/
def one : Byte := 0x80

/-- `sat(v)` clamps to -8 and 7 (00_scope.md section 5, R141). -/
def sat (v : Int) : Int := if v < -8 then -8 else if 7 < v then 7 else v

/-- `ovf(v)`: the value lies outside -8 to 7 (00_scope.md section 5). -/
def ovf (v : Int) : Bool := decide (v < -8) || decide (7 < v)

/-- `sext(byte)`, -128 to 127 (00_scope.md section 5). -/
def sext (b : Byte) : Int := if b.toNat < 128 then (b.toNat : Int) else (b.toNat : Int) - 256

/-- A result of unclamped exponent `s` and unwrapped phase `t` (R141). -/
def narrow (s t : Int) : Byte × Bool := (pack (sat s) t, ovf s)

/-- Multiply (42_arithmetic.md R150). -/
def mulOp (a b : Byte) : Byte × Bool := narrow (rho a + rho b) (theta a + theta b)

/-- Divide (R151). -/
def divOp (a b : Byte) : Byte × Bool := narrow (rho a - rho b) (theta a - theta b)

/-- Power by an unsigned exponent (R152). -/
def powOp (a n : Byte) : Byte × Bool := narrow (rho a * n.toNat) (theta a * n.toNat)

/-- Root by an unsigned index: the exponent's quotient rounds toward zero, the phase's is the floor (R153).
It cannot saturate. -/
def rootOp (a n : Byte) : Byte × Bool := (pack (Int.tdiv (rho a) n.toNat) (theta a / n.toNat), false)

/-- Inverse (R154). -/
def invOp (a : Byte) : Byte × Bool := narrow (-rho a) (-theta a)

/-- Conjugate (R155). -/
def conjOp (a : Byte) : Byte × Bool := (pack (rho a) (-theta a), false)

/-- Magnitude extraction (R156). -/
def magOp (a : Byte) : Byte × Bool := (pack (rho a) 0, false)

/-- Phase extraction (R157). -/
def phaseOp (a : Byte) : Byte × Bool := (pack 0 (theta a), false)

/-- Change of exponent by a signed byte (R158). -/
def scaleOp (a delta : Byte) : Byte × Bool := narrow (rho a + sext delta) (theta a)

/-- Change of phase by a signed byte (R159). -/
def rotateOp (a delta : Byte) : Byte × Bool := (pack (rho a) (theta a + sext delta), false)

/-- The exact negative of a number: a rotation by eight phase steps (R166). -/
def negate (b : Byte) : Byte := pack (rho b) (theta b + 8)

end Sys2Proof.Machine
end

