-- ==== Sys2Proof/Machine/CAdd.lean ====
section
/-! DEFINITION. Cartesian addition `cadd` by the complete value table of 43_cadd_table.md R180 and the lookup of
R181 (a model may use the table or the real-number definition of 42_arithmetic.md R160 to R164; log 13). -/

namespace Sys2Proof.Machine

/-- The rows `ra = -8` of R180, `rb` from -8 up; a row is its sixteen bytes `d = 0` to `15`, left to right. -/
def caddRowsM8 : List Nat := [
  0x1011111202030304000D0D0E0E1F1F10,
  0x1011111213141516181A1B1C1D1E1F1F,
  0x202122232425262728292A2B2C2D2E2F,
  0x303132333435363738393A3B3C3D3E3F,
  0x404142434445464748494A4B4C4D4E4F,
  0x505152535455565758595A5B5C5D5E5F,
  0x606162636465666768696A6B6C6D6E6F,
  0x707172737475767778797A7B7C7D7E7F,
  0x808182838485868788898A8B8C8D8E8F,
  0x909192939495969798999A9B9C9D9E9F,
  0xA0A1A2A3A4A5A6A7A8A9AAABACADAEAF,
  0xB0B1B2B3B4B5B6B7B8B9BABBBCBDBEBF,
  0xC0C1C2C3C4C5C6C7C8C9CACBCCCDCECF,
  0xD0D1D2D3D4D5D6D7D8D9DADBDCDDDEDF,
  0xE0E1E2E3E4E5E6E7E8E9EAEBECEDEEEF,
  0xF0F1F2F3F4F5F6F7F8F9FAFBFCFDFEFF]

/-- The rows `ra = -7` of R180, `rb` from -8 up; a row is its sixteen bytes `d = 0` to `15`, left to right. -/
def caddRowsM7 : List Nat := [
  0x1010111111111111101F1F1F1F1F1F10,
  0x2021212212131304000D1D1E1E2F2F20,
  0x2021212223242526282A2B2C2D2E2F2F,
  0x303132333435363738393A3B3C3D3E3F,
  0x404142434445464748494A4B4C4D4E4F,
  0x505152535455565758595A5B5C5D5E5F,
  0x606162636465666768696A6B6C6D6E6F,
  0x707172737475767778797A7B7C7D7E7F,
  0x808182838485868788898A8B8C8D8E8F,
  0x909192939495969798999A9B9C9D9E9F,
  0xA0A1A2A3A4A5A6A7A8A9AAABACADAEAF,
  0xB0B1B2B3B4B5B6B7B8B9BABBBCBDBEBF,
  0xC0C1C2C3C4C5C6C7C8C9CACBCCCDCECF,
  0xD0D1D2D3D4D5D6D7D8D9DADBDCDDDEDF,
  0xE0E1E2E3E4E5E6E7E8E9EAEBECEDEEEF,
  0xF0F1F2F3F4F5F6F7F8F9FAFBFCFDFEFF]

/-- The rows `ra = -6` of R180, `rb` from -8 up; a row is its sixteen bytes `d = 0` to `15`, left to right. -/
def caddRowsM6 : List Nat := [
  0x20202020202020202020202020202020,
  0x2020212121212121202F2F2F2F2F2F20,
  0x3031313222232314001D2D2E2E3F3F30,
  0x3031313233343536383A3B3C3D3E3F3F,
  0x404142434445464748494A4B4C4D4E4F,
  0x505152535455565758595A5B5C5D5E5F,
  0x606162636465666768696A6B6C6D6E6F,
  0x707172737475767778797A7B7C7D7E7F,
  0x808182838485868788898A8B8C8D8E8F,
  0x909192939495969798999A9B9C9D9E9F,
  0xA0A1A2A3A4A5A6A7A8A9AAABACADAEAF,
  0xB0B1B2B3B4B5B6B7B8B9BABBBCBDBEBF,
  0xC0C1C2C3C4C5C6C7C8C9CACBCCCDCECF,
  0xD0D1D2D3D4D5D6D7D8D9DADBDCDDDEDF,
  0xE0E1E2E3E4E5E6E7E8E9EAEBECEDEEEF,
  0xF0F1F2F3F4F5F6F7F8F9FAFBFCFDFEFF]

/-- The rows `ra = -5` of R180, `rb` from -8 up; a row is its sixteen bytes `d = 0` to `15`, left to right. -/
def caddRowsM5 : List Nat := [
  0x30303030303030303030303030303030,
  0x30303030303030303030303030303030,
  0x3030313131313131303F3F3F3F3F3F30,
  0x4041414232333324002D3D3E3E4F4F40,
  0x4041414243444546484A4B4C4D4E4F4F,
  0x505152535455565758595A5B5C5D5E5F,
  0x606162636465666768696A6B6C6D6E6F,
  0x707172737475767778797A7B7C7D7E7F,
  0x808182838485868788898A8B8C8D8E8F,
  0x909192939495969798999A9B9C9D9E9F,
  0xA0A1A2A3A4A5A6A7A8A9AAABACADAEAF,
  0xB0B1B2B3B4B5B6B7B8B9BABBBCBDBEBF,
  0xC0C1C2C3C4C5C6C7C8C9CACBCCCDCECF,
  0xD0D1D2D3D4D5D6D7D8D9DADBDCDDDEDF,
  0xE0E1E2E3E4E5E6E7E8E9EAEBECEDEEEF,
  0xF0F1F2F3F4F5F6F7F8F9FAFBFCFDFEFF]

/-- The rows `ra = -4` of R180, `rb` from -8 up; a row is its sixteen bytes `d = 0` to `15`, left to right. -/
def caddRowsM4 : List Nat := [
  0x40404040404040404040404040404040,
  0x40404040404040404040404040404040,
  0x40404040404040404040404040404040,
  0x4040414141414141404F4F4F4F4F4F40,
  0x5051515242434334003D4D4E4E5F5F50,
  0x5051515253545556585A5B5C5D5E5F5F,
  0x606162636465666768696A6B6C6D6E6F,
  0x707172737475767778797A7B7C7D7E7F,
  0x808182838485868788898A8B8C8D8E8F,
  0x909192939495969798999A9B9C9D9E9F,
  0xA0A1A2A3A4A5A6A7A8A9AAABACADAEAF,
  0xB0B1B2B3B4B5B6B7B8B9BABBBCBDBEBF,
  0xC0C1C2C3C4C5C6C7C8C9CACBCCCDCECF,
  0xD0D1D2D3D4D5D6D7D8D9DADBDCDDDEDF,
  0xE0E1E2E3E4E5E6E7E8E9EAEBECEDEEEF,
  0xF0F1F2F3F4F5F6F7F8F9FAFBFCFDFEFF]

/-- The rows `ra = -3` of R180, `rb` from -8 up; a row is its sixteen bytes `d = 0` to `15`, left to right. -/
def caddRowsM3 : List Nat := [
  0x50505050505050505050505050505050,
  0x50505050505050505050505050505050,
  0x50505050505050505050505050505050,
  0x50505050505050505050505050505050,
  0x5050515151515151505F5F5F5F5F5F50,
  0x6061616252535344004D5D5E5E6F6F60,
  0x6061616263646566686A6B6C6D6E6F6F,
  0x707172737475767778797A7B7C7D7E7F,
  0x808182838485868788898A8B8C8D8E8F,
  0x909192939495969798999A9B9C9D9E9F,
  0xA0A1A2A3A4A5A6A7A8A9AAABACADAEAF,
  0xB0B1B2B3B4B5B6B7B8B9BABBBCBDBEBF,
  0xC0C1C2C3C4C5C6C7C8C9CACBCCCDCECF,
  0xD0D1D2D3D4D5D6D7D8D9DADBDCDDDEDF,
  0xE0E1E2E3E4E5E6E7E8E9EAEBECEDEEEF,
  0xF0F1F2F3F4F5F6F7F8F9FAFBFCFDFEFF]

/-- The rows `ra = -2` of R180, `rb` from -8 up; a row is its sixteen bytes `d = 0` to `15`, left to right. -/
def caddRowsM2 : List Nat := [
  0x60606060606060606060606060606060,
  0x60606060606060606060606060606060,
  0x60606060606060606060606060606060,
  0x60606060606060606060606060606060,
  0x60606060606060606060606060606060,
  0x6060616161616161606F6F6F6F6F6F60,
  0x7071717262636354005D6D6E6E7F7F70,
  0x7071717273747576787A7B7C7D7E7F7F,
  0x808182838485868788898A8B8C8D8E8F,
  0x909192939495969798999A9B9C9D9E9F,
  0xA0A1A2A3A4A5A6A7A8A9AAABACADAEAF,
  0xB0B1B2B3B4B5B6B7B8B9BABBBCBDBEBF,
  0xC0C1C2C3C4C5C6C7C8C9CACBCCCDCECF,
  0xD0D1D2D3D4D5D6D7D8D9DADBDCDDDEDF,
  0xE0E1E2E3E4E5E6E7E8E9EAEBECEDEEEF,
  0xF0F1F2F3F4F5F6F7F8F9FAFBFCFDFEFF]

/-- The rows `ra = -1` of R180, `rb` from -8 up; a row is its sixteen bytes `d = 0` to `15`, left to right. -/
def caddRowsM1 : List Nat := [
  0x70707070707070707070707070707070,
  0x70707070707070707070707070707070,
  0x70707070707070707070707070707070,
  0x70707070707070707070707070707070,
  0x70707070707070707070707070707070,
  0x70707070707070707070707070707070,
  0x7070717171717171707F7F7F7F7F7F70,
  0x8081818272737364006D7D7E7E8F8F80,
  0x8081818283848586888A8B8C8D8E8F8F,
  0x909192939495969798999A9B9C9D9E9F,
  0xA0A1A2A3A4A5A6A7A8A9AAABACADAEAF,
  0xB0B1B2B3B4B5B6B7B8B9BABBBCBDBEBF,
  0xC0C1C2C3C4C5C6C7C8C9CACBCCCDCECF,
  0xD0D1D2D3D4D5D6D7D8D9DADBDCDDDEDF,
  0xE0E1E2E3E4E5E6E7E8E9EAEBECEDEEEF,
  0xF0F1F2F3F4F5F6F7F8F9FAFBFCFDFEFF]

/-- The rows `ra = 0` of R180, `rb` from -8 up; a row is its sixteen bytes `d = 0` to `15`, left to right. -/
def caddRowsP0 : List Nat := [
  0x80808080808080808080808080808080,
  0x80808080808080808080808080808080,
  0x80808080808080808080808080808080,
  0x80808080808080808080808080808080,
  0x80808080808080808080808080808080,
  0x80808080808080808080808080808080,
  0x80808080808080808080808080808080,
  0x8080818181818181808F8F8F8F8F8F80,
  0x9091919282838374007D8D8E8E9F9F90,
  0x9091919293949596989A9B9C9D9E9F9F,
  0xA0A1A2A3A4A5A6A7A8A9AAABACADAEAF,
  0xB0B1B2B3B4B5B6B7B8B9BABBBCBDBEBF,
  0xC0C1C2C3C4C5C6C7C8C9CACBCCCDCECF,
  0xD0D1D2D3D4D5D6D7D8D9DADBDCDDDEDF,
  0xE0E1E2E3E4E5E6E7E8E9EAEBECEDEEEF,
  0xF0F1F2F3F4F5F6F7F8F9FAFBFCFDFEFF]

/-- The rows `ra = 1` of R180, `rb` from -8 up; a row is its sixteen bytes `d = 0` to `15`, left to right. -/
def caddRowsP1 : List Nat := [
  0x90909090909090909090909090909090,
  0x90909090909090909090909090909090,
  0x90909090909090909090909090909090,
  0x90909090909090909090909090909090,
  0x90909090909090909090909090909090,
  0x90909090909090909090909090909090,
  0x90909090909090909090909090909090,
  0x90909090909090909090909090909090,
  0x9090919191919191909F9F9F9F9F9F90,
  0xA0A1A1A292939384008D9D9E9EAFAFA0,
  0xA0A1A1A2A3A4A5A6A8AAABACADAEAFAF,
  0xB0B1B2B3B4B5B6B7B8B9BABBBCBDBEBF,
  0xC0C1C2C3C4C5C6C7C8C9CACBCCCDCECF,
  0xD0D1D2D3D4D5D6D7D8D9DADBDCDDDEDF,
  0xE0E1E2E3E4E5E6E7E8E9EAEBECEDEEEF,
  0xF0F1F2F3F4F5F6F7F8F9FAFBFCFDFEFF]

/-- The rows `ra = 2` of R180, `rb` from -8 up; a row is its sixteen bytes `d = 0` to `15`, left to right. -/
def caddRowsP2 : List Nat := [
  0xA0A0A0A0A0A0A0A0A0A0A0A0A0A0A0A0,
  0xA0A0A0A0A0A0A0A0A0A0A0A0A0A0A0A0,
  0xA0A0A0A0A0A0A0A0A0A0A0A0A0A0A0A0,
  0xA0A0A0A0A0A0A0A0A0A0A0A0A0A0A0A0,
  0xA0A0A0A0A0A0A0A0A0A0A0A0A0A0A0A0,
  0xA0A0A0A0A0A0A0A0A0A0A0A0A0A0A0A0,
  0xA0A0A0A0A0A0A0A0A0A0A0A0A0A0A0A0,
  0xA0A0A0A0A0A0A0A0A0A0A0A0A0A0A0A0,
  0xA0A0A0A0A0A0A0A0A0A0A0A0A0A0A0A0,
  0xA0A0A1A1A1A1A1A1A0AFAFAFAFAFAFA0,
  0xB0B1B1B2A2A3A394009DADAEAEBFBFB0,
  0xB0B1B1B2B3B4B5B6B8BABBBCBDBEBFBF,
  0xC0C1C2C3C4C5C6C7C8C9CACBCCCDCECF,
  0xD0D1D2D3D4D5D6D7D8D9DADBDCDDDEDF,
  0xE0E1E2E3E4E5E6E7E8E9EAEBECEDEEEF,
  0xF0F1F2F3F4F5F6F7F8F9FAFBFCFDFEFF]

/-- The rows `ra = 3` of R180, `rb` from -8 up; a row is its sixteen bytes `d = 0` to `15`, left to right. -/
def caddRowsP3 : List Nat := [
  0xB0B0B0B0B0B0B0B0B0B0B0B0B0B0B0B0,
  0xB0B0B0B0B0B0B0B0B0B0B0B0B0B0B0B0,
  0xB0B0B0B0B0B0B0B0B0B0B0B0B0B0B0B0,
  0xB0B0B0B0B0B0B0B0B0B0B0B0B0B0B0B0,
  0xB0B0B0B0B0B0B0B0B0B0B0B0B0B0B0B0,
  0xB0B0B0B0B0B0B0B0B0B0B0B0B0B0B0B0,
  0xB0B0B0B0B0B0B0B0B0B0B0B0B0B0B0B0,
  0xB0B0B0B0B0B0B0B0B0B0B0B0B0B0B0B0,
  0xB0B0B0B0B0B0B0B0B0B0B0B0B0B0B0B0,
  0xB0B0B0B0B0B0B0B0B0B0B0B0B0B0B0B0,
  0xB0B0B1B1B1B1B1B1B0BFBFBFBFBFBFB0,
  0xC0C1C1C2B2B3B3A400ADBDBEBECFCFC0,
  0xC0C1C1C2C3C4C5C6C8CACBCCCDCECFCF,
  0xD0D1D2D3D4D5D6D7D8D9DADBDCDDDEDF,
  0xE0E1E2E3E4E5E6E7E8E9EAEBECEDEEEF,
  0xF0F1F2F3F4F5F6F7F8F9FAFBFCFDFEFF]

/-- The rows `ra = 4` of R180, `rb` from -8 up; a row is its sixteen bytes `d = 0` to `15`, left to right. -/
def caddRowsP4 : List Nat := [
  0xC0C0C0C0C0C0C0C0C0C0C0C0C0C0C0C0,
  0xC0C0C0C0C0C0C0C0C0C0C0C0C0C0C0C0,
  0xC0C0C0C0C0C0C0C0C0C0C0C0C0C0C0C0,
  0xC0C0C0C0C0C0C0C0C0C0C0C0C0C0C0C0,
  0xC0C0C0C0C0C0C0C0C0C0C0C0C0C0C0C0,
  0xC0C0C0C0C0C0C0C0C0C0C0C0C0C0C0C0,
  0xC0C0C0C0C0C0C0C0C0C0C0C0C0C0C0C0,
  0xC0C0C0C0C0C0C0C0C0C0C0C0C0C0C0C0,
  0xC0C0C0C0C0C0C0C0C0C0C0C0C0C0C0C0,
  0xC0C0C0C0C0C0C0C0C0C0C0C0C0C0C0C0,
  0xC0C0C0C0C0C0C0C0C0C0C0C0C0C0C0C0,
  0xC0C0C1C1C1C1C1C1C0CFCFCFCFCFCFC0,
  0xD0D1D1D2C2C3C3B400BDCDCECEDFDFD0,
  0xD0D1D1D2D3D4D5D6D8DADBDCDDDEDFDF,
  0xE0E1E2E3E4E5E6E7E8E9EAEBECEDEEEF,
  0xF0F1F2F3F4F5F6F7F8F9FAFBFCFDFEFF]

/-- The rows `ra = 5` of R180, `rb` from -8 up; a row is its sixteen bytes `d = 0` to `15`, left to right. -/
def caddRowsP5 : List Nat := [
  0xD0D0D0D0D0D0D0D0D0D0D0D0D0D0D0D0,
  0xD0D0D0D0D0D0D0D0D0D0D0D0D0D0D0D0,
  0xD0D0D0D0D0D0D0D0D0D0D0D0D0D0D0D0,
  0xD0D0D0D0D0D0D0D0D0D0D0D0D0D0D0D0,
  0xD0D0D0D0D0D0D0D0D0D0D0D0D0D0D0D0,
  0xD0D0D0D0D0D0D0D0D0D0D0D0D0D0D0D0,
  0xD0D0D0D0D0D0D0D0D0D0D0D0D0D0D0D0,
  0xD0D0D0D0D0D0D0D0D0D0D0D0D0D0D0D0,
  0xD0D0D0D0D0D0D0D0D0D0D0D0D0D0D0D0,
  0xD0D0D0D0D0D0D0D0D0D0D0D0D0D0D0D0,
  0xD0D0D0D0D0D0D0D0D0D0D0D0D0D0D0D0,
  0xD0D0D0D0D0D0D0D0D0D0D0D0D0D0D0D0,
  0xD0D0D1D1D1D1D1D1D0DFDFDFDFDFDFD0,
  0xE0E1E1E2D2D3D3C400CDDDDEDEEFEFE0,
  0xE0E1E1E2E3E4E5E6E8EAEBECEDEEEFEF,
  0xF0F1F2F3F4F5F6F7F8F9FAFBFCFDFEFF]

/-- The rows `ra = 6` of R180, `rb` from -8 up; a row is its sixteen bytes `d = 0` to `15`, left to right. -/
def caddRowsP6 : List Nat := [
  0xE0E0E0E0E0E0E0E0E0E0E0E0E0E0E0E0,
  0xE0E0E0E0E0E0E0E0E0E0E0E0E0E0E0E0,
  0xE0E0E0E0E0E0E0E0E0E0E0E0E0E0E0E0,
  0xE0E0E0E0E0E0E0E0E0E0E0E0E0E0E0E0,
  0xE0E0E0E0E0E0E0E0E0E0E0E0E0E0E0E0,
  0xE0E0E0E0E0E0E0E0E0E0E0E0E0E0E0E0,
  0xE0E0E0E0E0E0E0E0E0E0E0E0E0E0E0E0,
  0xE0E0E0E0E0E0E0E0E0E0E0E0E0E0E0E0,
  0xE0E0E0E0E0E0E0E0E0E0E0E0E0E0E0E0,
  0xE0E0E0E0E0E0E0E0E0E0E0E0E0E0E0E0,
  0xE0E0E0E0E0E0E0E0E0E0E0E0E0E0E0E0,
  0xE0E0E0E0E0E0E0E0E0E0E0E0E0E0E0E0,
  0xE0E0E0E0E0E0E0E0E0E0E0E0E0E0E0E0,
  0xE0E0E1E1E1E1E1E1E0EFEFEFEFEFEFE0,
  0xF0F1F1F2E2E3E3D400DDEDEEEEFFFFF0,
  0xF0F1F1F2F3F4F5F6F8FAFBFCFDFEFFFF]

/-- The rows `ra = 7` of R180, `rb` from -8 up; a row is its sixteen bytes `d = 0` to `15`, left to right. -/
def caddRowsP7 : List Nat := [
  0xF0F0F0F0F0F0F0F0F0F0F0F0F0F0F0F0,
  0xF0F0F0F0F0F0F0F0F0F0F0F0F0F0F0F0,
  0xF0F0F0F0F0F0F0F0F0F0F0F0F0F0F0F0,
  0xF0F0F0F0F0F0F0F0F0F0F0F0F0F0F0F0,
  0xF0F0F0F0F0F0F0F0F0F0F0F0F0F0F0F0,
  0xF0F0F0F0F0F0F0F0F0F0F0F0F0F0F0F0,
  0xF0F0F0F0F0F0F0F0F0F0F0F0F0F0F0F0,
  0xF0F0F0F0F0F0F0F0F0F0F0F0F0F0F0F0,
  0xF0F0F0F0F0F0F0F0F0F0F0F0F0F0F0F0,
  0xF0F0F0F0F0F0F0F0F0F0F0F0F0F0F0F0,
  0xF0F0F0F0F0F0F0F0F0F0F0F0F0F0F0F0,
  0xF0F0F0F0F0F0F0F0F0F0F0F0F0F0F0F0,
  0xF0F0F0F0F0F0F0F0F0F0F0F0F0F0F0F0,
  0xF0F0F0F0F0F0F0F0F0F0F0F0F0F0F0F0,
  0xF0F0F1F1F1F1F1F1F0FFFFFFFFFFFFF0,
  0xF0F1F1F2F2F3F3E400EDFDFEFEFFFFF0]

/-- The table `T` of R180 by `ra + 8`. -/
def caddTable : List (List Nat) :=
  [caddRowsM8, caddRowsM7, caddRowsM6, caddRowsM5, caddRowsM4, caddRowsM3, caddRowsM2, caddRowsM1,
   caddRowsP0, caddRowsP1, caddRowsP2, caddRowsP3, caddRowsP4, caddRowsP5, caddRowsP6, caddRowsP7]

/-- The byte of `T[ra][rb][d]`, the exponents given as the fields `ra + 8` and `rb + 8` (R180). -/
def caddEntry (ra8 rb8 d : Nat) : Byte :=
  BitVec.ofNat 8 (((caddTable.getD ra8 []).getD rb8 0) >>> (8 * (15 - d)))

/-- Whether `T[ra][rb][d]` carries the overflow star: the nine entries of R180, listed in R182. -/
def caddStar (ra rb : Int) (d : Nat) : Bool :=
  (ra == -8 && rb == -8 && (d == 7 || d == 9)) ||
  (ra == 7 && rb == 7 && (d ≤ 3 || 13 ≤ d))

/-- `cadd(a, b)`: the packed sum and the overflow bit (R181, 42_arithmetic.md R162). An exactly zero sum is
the byte `0x00`, whatever the phases. -/
def cadd (a b : Byte) : Byte × Bool :=
  let d := ((theta b - theta a) % 16).toNat
  if rho a = rho b ∧ d = 8 then (0x00, false)
  else
    let e := caddEntry (a.toNat / 16) (b.toNat / 16) d
    (pack (rho e) (theta e + theta a), caddStar (rho a) (rho b) d)

end Sys2Proof.Machine
end

