-- ==== Sys2Proof/Config.lean ====
section
/-! DEFINITION. The implementation parameters of 00_scope.md R3 and R4: the fixed ones as constants, the
configurable ones as the record `Cfg`, which State holds. The spec leaves no value undefined, so there is no
free value (opaque constant) here. -/

namespace Sys2Proof

/-- The configurable capacities of R4. `TT_SIZE` is no field: only 0 is accepted (20_memory.md R53,
93_implementation_defined.md U6; log 5). -/
structure Cfg where
  /-- `HEAP_CAP`: most SilStates the StateHeap may hold. -/
  heapCap   : Nat
  /-- `VSTACK_CAP`: most ByteSils on the value stack. -/
  vstackCap : Nat
  /-- `CSTACK_CAP`: most frames on the call stack. -/
  cstackCap : Nat
  /-- `IO_PORTS`: number of general IO ports. -/
  ioPorts   : Nat
deriving DecidableEq, Repr

namespace Config

/-- `CODE_MAX`: most bytes of code a load accepts (R4, 92_eei_decisions.md D43). -/
def codeMax : Nat := 2 ^ 24

/-- `TT_SIZE`: the extent of the TransformTable segment; this core has 0 and accepts nothing else
(20_memory.md R53, U6; log 5). -/
def ttSize : Nat := 0

/-- The largest legal `HEAP_CAP` (R4). -/
def heapCapMax : Nat := 2 ^ 24

/-- The largest legal `VSTACK_CAP` and `CSTACK_CAP` (R4). -/
def stackCapMax : Nat := 2 ^ 32 - 1

/-- The largest legal `IO_PORTS` (R4). -/
def ioPortsMax : Nat := 65536

/-- `CFG_REF`, the reference configuration of R4 (column "reference"). DESIGN CHOICE, unsafe (log 1): the
spec leaves the capacities open and the model's `State.reset` carries this one. -/
def reference : Cfg := ⟨4096, 256, 256, 16⟩

end Config

/-- Every capacity lies in its legal range (R4). -/
abbrev Cfg.Legal (c : Cfg) : Prop :=
  c.heapCap ≤ Config.heapCapMax ∧ c.vstackCap ≤ Config.stackCapMax ∧
  c.cstackCap ≤ Config.stackCapMax ∧ c.ioPorts ≤ Config.ioPortsMax

end Sys2Proof
end

