-- ==== Sys2Proof/Machine/Memory.lean ====
section
/-! DEFINITION. The sparse memory that backs the addressable stores CODE, HEAP and PORT (10_state.md R27 to
R30), keyed by the full 32-bit address; and the segment map of 20_memory.md R40 to R42. -/

namespace Sys2Proof.Machine

/-- Listed bytes, by address. An unlisted address reads `0x00` (log 2): the value of a fresh heap state
(20_memory.md R54) and of a port after reset (10_state.md R37). -/
abbrev Memory := List Host.Cell

/-- The canonical form: addresses strictly rising, and no listed byte equal to what an unlisted one reads. -/
abbrev Memory.wf (m : Memory) : Prop := m.Pairwise (fun x y => x.1 < y.1) ∧ ∀ x ∈ m, x.2 ≠ 0

/-- The byte at an address. -/
def Memory.read : Memory → Nat → Byte
  | [], _ => 0
  | (k, v) :: rest, a => if k = a then v else Memory.read rest a

/-- Store one byte, keeping the canonical form. -/
def Memory.write : Memory → Nat → Byte → Memory
  | [], a, v => if v = 0 then [] else [(a, v)]
  | (k, w) :: rest, a, v =>
    if a < k then (if v = 0 then (k, w) :: rest else (a, v) :: (k, w) :: rest)
    else if k = a then (if v = 0 then rest else (a, v) :: rest)
    else (k, w) :: Memory.write rest a v

/-- Store bytes at ascending addresses from `a` up. -/
def Memory.writeBytes (m : Memory) (a : Nat) : List Byte → Memory
  | [] => m
  | v :: vs => Memory.writeBytes (m.write a v) (a + 1) vs

/-- The `n` bytes from `a` up. -/
def Memory.readBytes (m : Memory) (a n : Nat) : List Byte :=
  (List.range n).map fun i => m.read (a + i)

/-- Make every address from `lo` up to but not including `hi` read `0x00`. -/
def Memory.clear (m : Memory) (lo hi : Nat) : Memory :=
  m.filter fun x => !(decide (lo ≤ x.1) && decide (x.1 < hi))

/-- The memory that holds a byte string from `base` up and nothing else. -/
def Memory.ofBytes (base : Nat) : List Byte → Memory
  | [] => []
  | b :: bs => if b = 0 then Memory.ofBytes (base + 1) bs else (base, b) :: Memory.ofBytes (base + 1) bs

/-- The five segments of R41. -/
inductive Segment where
  | code | stateHeap | callStack | transformTable | ioMapped
deriving DecidableEq, Repr

/-- `off = addr[27:0]` (R40). -/
def offsetOf (a : Addr) : Nat := a.toNat % 2 ^ 28

/-- Segment lookup: a total function of `seg = addr[31:28]`; `0x4` to `0xE` name no segment (R41, R42, R56). -/
def segmentOf (a : Addr) : Option Segment :=
  match a.toNat / 2 ^ 28 with
  | 0x0 => some .code
  | 0x1 => some .stateHeap
  | 0x2 => some .callStack
  | 0x3 => some .transformTable
  | 0xF => some .ioMapped
  | _ => none

/-- The base address of the Code segment (R41). -/
def codeBase : Nat := 0x00000000

/-- The base address of the StateHeap segment (R41). -/
def heapBase : Nat := 0x10000000

/-- The base address of the IoMapped segment (R41). -/
def ioBase : Nat := 0xF0000000

end Sys2Proof.Machine
end

