-- ==== Sys2Proof/Machine/State.lean ====
section
/-! DEFINITION. The whole architectural state of 10_state.md as plain data, the machine after `Reset` (R37), and
the reason types of the host's interface. -/

namespace Sys2Proof.Machine

/-- The run state `RUN` (R23). -/
inductive Run where
  | running | yielded | halted | faulted
deriving DecidableEq, Repr

/-- The fault kinds of 60_exceptions.md R251, in the order of their codes 1 to 11. -/
inductive FaultKind where
  | addressOutOfBounds | invalidSegment | heapOverflow | stackOverflow | stackUnderflow
  | invalidSensor | invalidActuator | invalidPort | illegalOpcode | illegalOperand | unsupportedOpcode
deriving DecidableEq, Repr

/-- The fault record `FAULT` (R24): code 0 means that no fault is recorded. -/
structure FaultRec where
  code : BitVec 8
  info : BitVec 32
deriving DecidableEq, Repr

/-- A frame of the call stack: return address and saved frame pointer (R26). -/
structure Frame where
  ret : BitVec 32
  fp  : BitVec 32
deriving DecidableEq, Repr

/-- The five flags of `SR` (R16). Bits 7 to 5 have no state behind them (93_implementation_defined.md U8;
log 11). -/
structure SR where
  z : Bool
  n : Bool
  o : Bool
  c : Bool
  e : Bool
deriving DecidableEq, Repr

/-- One entry of the output log: actuator index and value (R32). -/
structure LogEntry where
  index : Reg
  value : Byte
deriving DecidableEq, Repr

/-- The input stream (R33): `IN_ATTACHED`, `IN_BYTES` (whose length is `IN_LEN`) and `IN_POS`. -/
structure InStream where
  attached : Bool
  bytes    : List Byte
  pos      : Nat
deriving DecidableEq, Repr

/-- Everything the spec gives the machine. `VDEPTH` and `CDEPTH` are the lengths of `vs` and `cs`, oldest entry
first (R25, R26). `CODE`, `HEAP` and `PORT` are `mem` at the addresses of 20_memory.md R41 (log 2), `codeLen`
and `heapLen` their extents; the ports' extent is `cfg.ioPorts`. -/
structure State where
  /-- `R0` to `RF` (R11). -/
  regs     : Vector (BitVec 8) 16
  /-- The program counter (R15). -/
  pc       : BitVec 32
  /-- The status register (R16). -/
  sr       : SR
  /-- The frame pointer (R21). -/
  fp       : BitVec 32
  /-- The opaque numeric-precision mode (R22). -/
  mode     : BitVec 16
  /-- The run state (R23). -/
  run      : Run
  /-- The fault record (R24). -/
  fault    : FaultRec
  /-- The value stack, oldest entry first (R25). -/
  vs       : List (BitVec 8)
  /-- The call stack, oldest frame first (R26). -/
  cs       : List Frame
  /-- The addressable bytes (R27 to R30). -/
  mem      : Memory
  /-- `CODE_LEN` in bytes (R28). -/
  codeLen  : Nat
  /-- `HEAP_LEN` in SilStates (R29). -/
  heapLen  : Nat
  /-- The sensor slots (R31). -/
  sensor   : Vector (BitVec 8) 16
  /-- The actuator slots (R31). -/
  actuator : Vector (BitVec 8) 16
  /-- The output log, oldest entry first (R32). -/
  outlog   : List LogEntry
  /-- The input stream (R33). -/
  instream : InStream
  /-- The configuration record (00_scope.md R4), which the host may change between steps (70 R309). -/
  cfg      : Cfg
deriving DecidableEq, Repr

/-- The state after `Reset` in a core of configuration `cfg`: the table of R37. -/
def State.resetWith (cfg : Cfg) : State where
  regs     := Vector.replicate 16 0
  pc       := 0
  sr       := ⟨false, false, false, false, false⟩
  fp       := 0
  mode     := 0
  run      := .running
  fault    := ⟨0, 0⟩
  vs       := []
  cs       := []
  mem      := []
  codeLen  := 0
  heapLen  := 0
  sensor   := Vector.replicate 16 0
  actuator := Vector.replicate 16 0
  outlog   := []
  instream := ⟨false, [], 0⟩
  cfg      := cfg

/-- The machine right after reset (R37, 70_reset_and_hazards.md R290), in the reference configuration
(DESIGN CHOICE, unsafe; log 1). -/
def State.reset : State := State.resetWith Config.reference

/-- A step of this machine never ends in a host-level fault, so the type has no constructor: every fault of the
spec is RECORDED IN THE STATE by `raise` (60_exceptions.md R252: `FAULT` written, `RUN <- FAULTED`, `pc` kept),
which is a next state (log 3). Safe: no spec fault is lost, each is a next state that shows it. -/
inductive Fault where
deriving DecidableEq, Repr

/-- Why a step could be refused. -/
inductive Refusal where
  /-- Raised by an arm of `exec` whose instruction has no meaning yet; no arm raises it. Safe. -/
  | notModelled (mnemonic : String)
deriving DecidableEq, Repr

end Sys2Proof.Machine
end

