-- ==== Sys2Proof/Machine/Flags.lean ====
section
/-! DEFINITION. The status register: every flag computation of 10_state.md R16 to R20 and its 8-bit view. -/

namespace Sys2Proof.Machine

/-- `SetZN(b)` and `O <- o`: `Z` when the exponent is NULL's, `N` when it is negative; `C` and `E` stay
(R17, R18, 42_arithmetic.md R143). -/
def SR.setZNO (f : SR) (b : Byte) (o : Bool) : SR :=
  { f with z := decide (rho b = -8), n := decide (rho b < 0), o := o }

/-- `SR` as the byte the host reads: `Z N O C E` in bits 0 to 4, bits 7 to 5 zero (R16). -/
def SR.toByte (f : SR) : Byte :=
  BitVec.ofNat 8 (f.z.toNat + 2 * f.n.toNat + 4 * f.o.toNat + 8 * f.c.toNat + 16 * f.e.toNat)

/-- The flags that the host's write of the byte `v` leaves: `v & 0x1F` (70_reset_and_hazards.md R305). -/
def SR.ofByte (v : Byte) : SR := ⟨v.getLsbD 0, v.getLsbD 1, v.getLsbD 2, v.getLsbD 3, v.getLsbD 4⟩

/-- Write `Z`, `N` and `O` from a packed result and an overflow bit (R17, R18). -/
def State.setZNO (s : State) (b : Byte) (o : Bool) : State := { s with sr := s.sr.setZNO b o }

/-- Write `E`, which only `SENSE` does (R20). -/
def State.setE (s : State) (e : Bool) : State := { s with sr := { s.sr with e := e } }

end Sys2Proof.Machine
end

