-- ==== Sys2Proof/Syntax.lean ====
section
/-! DEFINITION. The instructions of the VSP ISA: one constructor per row of spec/opcode_table.json
(30_encoding.md R83), with the operands the decoder returns (R72). Operand bytes that are fetched and not
examined (stubs, hints, unsupported opcodes; R85, R86) are no operand. -/

namespace Sys2Proof

/-- The instruction formats of R71, Format D split into its sub-forms D.a (24-bit immediate) and D.m
(selector, register, 16-bit offset). -/
inductive Format where
  | a | b | c | da | dm
deriving DecidableEq, Repr

/-- The categories of R70, with the two halves of `0b101` and of `0b111` kept apart. -/
inductive Category where
  | control | data | arithmetic | layer | transform | compatibility | quantumExtension
  | systemIO | hint | hardwareSpecific
deriving DecidableEq, Repr

/-- The class column of R83: executes, inert (stub or hint), unsupported. -/
inductive OpClass where
  | executes | inert | unsupported
deriving DecidableEq, Repr

/-- The fold mode of `FOLD`: operand kind `fm`, bytes 0, 1, 2 (R81, 44_layer.md R190). -/
inductive FoldMode where
  | xor | cadd | cmul
deriving DecidableEq, Repr

/-- One constructor per row of the opcode table, in the table's order. -/
inductive Instr where
  | nop
  | hlt
  | ret
  | yield
  | jmp (target : BitVec 24)
  | jz (target : BitVec 24)
  | jn (target : BitVec 24)
  | jc (target : BitVec 24)
  | jo (target : BitVec 24)
  | call (target : BitVec 24)
  | loop (c : Reg) (target : BitVec 16)
  | mov (d s : Reg)
  | movi (d : Reg) (v : Byte)
  | load (seg : BitVec 4) (d : Reg) (off : BitVec 16)
  | store (seg : BitVec 4) (s : Reg) (off : BitVec 16)
  | push (s : Reg)
  | pop (d : Reg)
  | lstate (k : BitVec 24)
  | sstate (k : BitVec 24)
  | mul (d s : Reg)
  | div (d s : Reg)
  | pow (d : Reg) (n : Byte)
  | root (d : Reg) (n : Byte)
  | inv (d : Reg)
  | conj (d : Reg)
  | add (d s : Reg)
  | sub (d s : Reg)
  | mag (d : Reg)
  | phase (d : Reg)
  | scale (d : Reg) (delta : Byte)
  | rotate (d : Reg) (delta : Byte)
  | xorl (d : Reg)
  | andl (d : Reg)
  | orl (d : Reg)
  | rotl (n : Reg)
  | fold (m : FoldMode)
  | spread (s : Reg) (lo hi : Reg)
  | gather (d : Reg) (lo hi : Reg)
  | trans
  | pipe
  | lerp
  | slerp
  | grad
  | descent
  | emerge
  | collapse
  | promote
  | demote
  | sense (d : Reg) (ix : Byte)
  | act (ix : Byte) (s : Reg)
  | sync
  | broadcast
  | receive
  | entangle
  | hintCpu
  | hintGpu
  | hintNpu
  | hintFpga
  | hintDsp
  | batchBegin
  | batchEnd
  | prefetch
  | fence
deriving DecidableEq, Repr

end Sys2Proof
end

