-- ==== Sys2Proof/WellFormed.lean ====
section
/-! DEFINITION. What the operand types of Instr do not already rule out (30_encoding.md R87): the one
value that no encoding names is the index 0 of `ROOT`. A register with a nonzero high nibble, a fold mode
above 2 and a selector in `LOOP` cannot be written as an Instr. -/

namespace Sys2Proof

/-- The instruction has an encoding: `ROOT`'s index is not 0 (R81, 42_arithmetic.md R153). -/
def Instr.wellFormed : Instr → Bool
  | .root _ n => n != 0
  | _ => true

end Sys2Proof
end

