-- ==== Sys2Proof/Decode.lean ====
section
/-! DEFINITION. The decoder of 30_encoding.md R72 over the bytes that can be fetched, total on any bytes and
rejecting by name; the encoder from the same tables; and the reading of an opcode-table word. -/

namespace Sys2Proof

/-! ### Formats, classes, categories (R70, R71, R83) -/

/-- The width in bytes of a format (R71). -/
def Format.width : Format → Nat
  | .a => 1
  | .b => 2
  | .c => 3
  | .da => 4
  | .dm => 4

/-- `format(op)`: the column "fmt" of R83; `none` for the unassigned opcodes of R84. -/
def formatOf (op : Byte) : Option Format :=
  match op.toNat with
  | 0x00 | 0x01 | 0x02 | 0x03 => some .a
  | 0x10 | 0x11 | 0x12 | 0x13 | 0x14 | 0x15 => some .da
  | 0x16 => some .dm
  | 0x20 | 0x21 => some .c
  | 0x22 | 0x23 => some .dm
  | 0x24 | 0x25 => some .b
  | 0x26 | 0x27 => some .da
  | 0x40 | 0x41 | 0x42 | 0x43 => some .c
  | 0x44 | 0x45 => some .b
  | 0x46 | 0x47 => some .c
  | 0x48 | 0x49 => some .b
  | 0x4A | 0x4B => some .c
  | 0x60 | 0x61 | 0x62 | 0x63 | 0x64 => some .b
  | 0x65 | 0x66 => some .c
  | 0x80 => some .b
  | 0x81 => some .da
  | 0x82 | 0x83 => some .c
  | 0x84 => some .b
  | 0x85 => some .c
  | 0x86 | 0x87 => some .a
  | 0xA0 => some .b
  | 0xA1 => some .c
  | 0xC0 | 0xC1 => some .c
  | 0xC4 => some .a
  | 0xC5 | 0xC6 => some .b
  | 0xC7 => some .c
  | 0xE0 | 0xE1 | 0xE2 | 0xE3 | 0xE4 | 0xE8 | 0xE9 => some .a
  | 0xEA => some .da
  | 0xEB => some .a
  | _ => none

/-- The instruction of an opcode of class "u", which is told by its first byte alone (R85). -/
def unsupportedOf (op : Byte) : Option Instr :=
  match op.toNat with
  | 0x80 => some .trans
  | 0x81 => some .pipe
  | 0x82 => some .lerp
  | 0x83 => some .slerp
  | 0x84 => some .grad
  | 0x85 => some .descent
  | 0xA0 => some .promote
  | 0xA1 => some .demote
  | _ => none

/-- The instruction of an opcode of class "n" (stub or hint): its operand bytes are not examined (R86). -/
def inertOf (op : Byte) : Option Instr :=
  match op.toNat with
  | 0x86 => some .emerge
  | 0x87 => some .collapse
  | 0xC4 => some .sync
  | 0xC5 => some .broadcast
  | 0xC6 => some .receive
  | 0xC7 => some .entangle
  | 0xE0 => some .hintCpu
  | 0xE1 => some .hintGpu
  | 0xE2 => some .hintNpu
  | 0xE3 => some .hintFpga
  | 0xE4 => some .hintDsp
  | 0xE8 => some .batchBegin
  | 0xE9 => some .batchEnd
  | 0xEA => some .prefetch
  | 0xEB => some .fence
  | _ => none

/-- The class column of R83 for an assigned opcode, `none` for an unassigned one (R84 to R86). -/
def classOf (op : Byte) : Option OpClass :=
  if (formatOf op).isNone then none
  else if (unsupportedOf op).isSome then some .unsupported
  else if (inertOf op).isSome then some .inert
  else some .executes

/-- The category of an opcode byte, by its high three bits and, for `0b101` and `0b111`, bit 4 (R70). -/
def categoryOf (op : Byte) : Category :=
  match op.toNat / 32 with
  | 0 => .control
  | 1 => .data
  | 2 => .arithmetic
  | 3 => .layer
  | 4 => .transform
  | 5 => if op.toNat < 0xB0 then .compatibility else .quantumExtension
  | 6 => .systemIO
  | _ => if op.toNat < 0xF0 then .hint else .hardwareSpecific

/-! ### Bit fields (R77, R80 to R82) -/

/-- Bits 3:0 of a byte. -/
def lowNibble (b : Byte) : Reg := ⟨b.toNat % 16, Nat.mod_lt _ (by decide)⟩

/-- Bits 7:4 of a byte. -/
def highNibble (b : Byte) : Reg := ⟨b.toNat / 16, by have := b.isLt; omega⟩

/-- The byte with `hi` in bits 7:4 and `lo` in bits 3:0. -/
def nibbles (hi lo : Reg) : Byte := BitVec.ofNat 8 (hi.val * 16 + lo.val)

/-- A 24-bit immediate is assembled little-endian (R77). -/
def imm24 (b1 b2 b3 : Byte) : BitVec 24 := b3 ++ b2 ++ b1

/-- A 16-bit offset is assembled little-endian (R77). -/
def imm16 (b2 b3 : Byte) : BitVec 16 := b3 ++ b2

/-- The segment selector `B1[7:4]` of a short address (R78). -/
def segField (b1 : Byte) : BitVec 4 := b1.extractLsb' 4 4

/-- The little-endian bytes of a 24-bit immediate. -/
def bytes24 (t : BitVec 24) : List Byte := [t.extractLsb' 0 8, t.extractLsb' 8 8, t.extractLsb' 16 8]

/-- The little-endian bytes of a 16-bit immediate. -/
def bytes16 (t : BitVec 16) : List Byte := [t.extractLsb' 0 8, t.extractLsb' 8 8]

/-- `B1` of Format D.m: the selector in bits 7:4 and the register in bits 3:0 (R71). -/
def segReg (seg : BitVec 4) (r : Reg) : Byte := seg ++ BitVec.ofNat 4 r.val

/-! ### Decoding (R72) -/

/-- Why a byte sequence is no instruction: byte `k` of it is not there (the fetch of `pc + k` fails, R47),
its first byte is unassigned (R84), or byte `k` breaks its operand kind's rule (R87). -/
inductive DecodeError where
  | missing (k : Nat)
  | illegalOpcode (op : Byte)
  | illegalOperand (k : Nat) (b : Byte)
deriving DecidableEq, Repr

/-- Operand kinds `r` and `n4`: a byte whose high nibble is 0 (R80, R81). -/
def withReg (k : Nat) (b : Byte) (f : Reg → Except DecodeError Instr) : Except DecodeError Instr :=
  if b.toNat < 16 then f (lowNibble b) else .error (.illegalOperand k b)

/-- The fold mode of a byte of kind `fm` (R81). -/
def foldModeOf (b : Byte) : Option FoldMode :=
  match b.toNat with
  | 0 => some .xor
  | 1 => some .cadd
  | 2 => some .cmul
  | _ => none

/-- The operand checks and fields of an opcode of class "x", whose operand bytes have all been fetched;
`B1` is checked before `B2` (R72, R77 to R82). -/
def decodeOperands (op b1 b2 b3 : Byte) : Except DecodeError Instr :=
  match op.toNat with
  | 0x00 => .ok .nop
  | 0x01 => .ok .hlt
  | 0x02 => .ok .ret
  | 0x03 => .ok .yield
  | 0x10 => .ok (.jmp (imm24 b1 b2 b3))
  | 0x11 => .ok (.jz (imm24 b1 b2 b3))
  | 0x12 => .ok (.jn (imm24 b1 b2 b3))
  | 0x13 => .ok (.jc (imm24 b1 b2 b3))
  | 0x14 => .ok (.jo (imm24 b1 b2 b3))
  | 0x15 => .ok (.call (imm24 b1 b2 b3))
  | 0x16 => withReg 1 b1 fun c => .ok (.loop c (imm16 b2 b3))
  | 0x20 => withReg 1 b1 fun d => withReg 2 b2 fun s => .ok (.mov d s)
  | 0x21 => withReg 1 b1 fun d => .ok (.movi d b2)
  | 0x22 => .ok (.load (segField b1) (lowNibble b1) (imm16 b2 b3))
  | 0x23 => .ok (.store (segField b1) (lowNibble b1) (imm16 b2 b3))
  | 0x24 => withReg 1 b1 fun s => .ok (.push s)
  | 0x25 => withReg 1 b1 fun d => .ok (.pop d)
  | 0x26 => .ok (.lstate (imm24 b1 b2 b3))
  | 0x27 => .ok (.sstate (imm24 b1 b2 b3))
  | 0x40 => withReg 1 b1 fun d => withReg 2 b2 fun s => .ok (.mul d s)
  | 0x41 => withReg 1 b1 fun d => withReg 2 b2 fun s => .ok (.div d s)
  | 0x42 => withReg 1 b1 fun d => .ok (.pow d b2)
  | 0x43 => withReg 1 b1 fun d => if b2 = 0 then .error (.illegalOperand 2 b2) else .ok (.root d b2)
  | 0x44 => withReg 1 b1 fun d => .ok (.inv d)
  | 0x45 => withReg 1 b1 fun d => .ok (.conj d)
  | 0x46 => withReg 1 b1 fun d => withReg 2 b2 fun s => .ok (.add d s)
  | 0x47 => withReg 1 b1 fun d => withReg 2 b2 fun s => .ok (.sub d s)
  | 0x48 => withReg 1 b1 fun d => .ok (.mag d)
  | 0x49 => withReg 1 b1 fun d => .ok (.phase d)
  | 0x4A => withReg 1 b1 fun d => .ok (.scale d b2)
  | 0x4B => withReg 1 b1 fun d => .ok (.rotate d b2)
  | 0x60 => withReg 1 b1 fun d => .ok (.xorl d)
  | 0x61 => withReg 1 b1 fun d => .ok (.andl d)
  | 0x62 => withReg 1 b1 fun d => .ok (.orl d)
  | 0x63 => withReg 1 b1 fun n => .ok (.rotl n)
  | 0x64 =>
    match foldModeOf b1 with
    | some m => .ok (.fold m)
    | none => .error (.illegalOperand 1 b1)
  | 0x65 => withReg 1 b1 fun s => .ok (.spread s (lowNibble b2) (highNibble b2))
  | 0x66 => withReg 1 b1 fun d => .ok (.gather d (lowNibble b2) (highNibble b2))
  | 0xC0 => withReg 1 b1 fun d => .ok (.sense d b2)
  | 0xC1 => withReg 2 b2 fun s => .ok (.act b1 s)
  | _ => .error (.illegalOpcode op)

/-- `Decode` of R72 over the bytes that can be fetched from the instruction's address up (at most four are
looked at): opcode byte, then class, then the presence of every operand byte, then their values. -/
def decode : List Byte → Except DecodeError Instr
  | [] => .error (.missing 0)
  | op :: ops =>
    match formatOf op with
    | none => .error (.illegalOpcode op)
    | some f =>
      match unsupportedOf op with
      | some i => .ok i
      | none =>
        if ops.length + 1 < f.width then .error (.missing (ops.length + 1))
        else
          match inertOf op with
          | some i => .ok i
          | none => decodeOperands op (ops.getD 0 0) (ops.getD 1 0) (ops.getD 2 0)

/-! ### Encoding (R71, R77 to R83) -/

/-- The opcode byte of R83. -/
def Instr.opcode : Instr → Byte
  | .nop => 0x00
  | .hlt => 0x01
  | .ret => 0x02
  | .yield => 0x03
  | .jmp _ => 0x10
  | .jz _ => 0x11
  | .jn _ => 0x12
  | .jc _ => 0x13
  | .jo _ => 0x14
  | .call _ => 0x15
  | .loop _ _ => 0x16
  | .mov _ _ => 0x20
  | .movi _ _ => 0x21
  | .load _ _ _ => 0x22
  | .store _ _ _ => 0x23
  | .push _ => 0x24
  | .pop _ => 0x25
  | .lstate _ => 0x26
  | .sstate _ => 0x27
  | .mul _ _ => 0x40
  | .div _ _ => 0x41
  | .pow _ _ => 0x42
  | .root _ _ => 0x43
  | .inv _ => 0x44
  | .conj _ => 0x45
  | .add _ _ => 0x46
  | .sub _ _ => 0x47
  | .mag _ => 0x48
  | .phase _ => 0x49
  | .scale _ _ => 0x4A
  | .rotate _ _ => 0x4B
  | .xorl _ => 0x60
  | .andl _ => 0x61
  | .orl _ => 0x62
  | .rotl _ => 0x63
  | .fold _ => 0x64
  | .spread _ _ _ => 0x65
  | .gather _ _ _ => 0x66
  | .trans => 0x80
  | .pipe => 0x81
  | .lerp => 0x82
  | .slerp => 0x83
  | .grad => 0x84
  | .descent => 0x85
  | .emerge => 0x86
  | .collapse => 0x87
  | .promote => 0xA0
  | .demote => 0xA1
  | .sense _ _ => 0xC0
  | .act _ _ => 0xC1
  | .sync => 0xC4
  | .broadcast => 0xC5
  | .receive => 0xC6
  | .entangle => 0xC7
  | .hintCpu => 0xE0
  | .hintGpu => 0xE1
  | .hintNpu => 0xE2
  | .hintFpga => 0xE3
  | .hintDsp => 0xE4
  | .batchBegin => 0xE8
  | .batchEnd => 0xE9
  | .prefetch => 0xEA
  | .fence => 0xEB

/-- The operand byte of a register (R80). -/
def regByte (r : Reg) : Byte := BitVec.ofNat 8 r.val

/-- The byte of a fold mode (R81). -/
def FoldMode.byte : FoldMode → Byte
  | .xor => 0
  | .cadd => 1
  | .cmul => 2

/-- The operand bytes `B1` up. A byte that the decoder fetches and does not examine is written as 0
(DESIGN CHOICE, safe: the decoder accepts every value there; log 8). -/
def Instr.operandBytes : Instr → List Byte
  | .nop | .hlt | .ret | .yield => []
  | .jmp t | .jz t | .jn t | .jc t | .jo t | .call t => bytes24 t
  | .loop c t => regByte c :: bytes16 t
  | .mov d s => [regByte d, regByte s]
  | .movi d v => [regByte d, v]
  | .load g d o => segReg g d :: bytes16 o
  | .store g s o => segReg g s :: bytes16 o
  | .push r | .pop r => [regByte r]
  | .lstate k | .sstate k => bytes24 k
  | .mul d s | .div d s | .add d s | .sub d s => [regByte d, regByte s]
  | .pow d n | .root d n => [regByte d, n]
  | .inv d | .conj d | .mag d | .phase d => [regByte d]
  | .scale d v | .rotate d v => [regByte d, v]
  | .xorl d | .andl d | .orl d => [regByte d]
  | .rotl n => [regByte n]
  | .fold m => [m.byte]
  | .spread r lo hi | .gather r lo hi => [regByte r, nibbles hi lo]
  | .trans | .grad | .promote => [0]
  | .pipe => [0, 0, 0]
  | .lerp | .slerp | .descent | .demote => [0, 0]
  | .emerge | .collapse => []
  | .sense d ix => [regByte d, ix]
  | .act ix s => [ix, regByte s]
  | .sync => []
  | .broadcast | .receive => [0]
  | .entangle => [0, 0]
  | .hintCpu | .hintGpu | .hintNpu | .hintFpga | .hintDsp | .batchBegin | .batchEnd => []
  | .prefetch => [0, 0, 0]
  | .fence => []

/-- The bytes of an instruction in ascending address order: `B0`, then the operand bytes. -/
def encode (i : Instr) : List Byte := i.opcode :: i.operandBytes

/-! ### The opcode table's words -/

/-- Byte `k` of an instruction given as the number `w` of `nbits` bits, as spec/opcode_table.json numbers it:
"`match`, `mask` and `encoding` are written with byte `B0` (the opcode, lowest address) first" (R83), so `B0`
is the most significant byte (log 6). The bytes past `nbits` are 0. -/
def tableByte (nbits w k : Nat) : Byte :=
  if 8 * (k + 1) ≤ nbits then BitVec.ofNat 8 (w >>> (nbits - 8 * (k + 1))) else 0

/-- The four bytes, lowest address first, that stand for an opcode-table word. -/
def tableBytes (nbits w : Nat) : List Byte :=
  [tableByte nbits w 0, tableByte nbits w 1, tableByte nbits w 2, tableByte nbits w 3]

/-- What the decoder reads from an opcode-table word. -/
def decodeTableWord (nbits w : Nat) : Option Instr :=
  match decode (tableBytes nbits w) with
  | .ok i => some i
  | .error _ => none

end Sys2Proof
end

