-- ==== Sys2Proof/Machine/Operands.lean ====
section
/-! DEFINITION. The operand forms: addresses, code targets and layer ranges (30_encoding.md R78, R79, R82). -/

namespace Sys2Proof.Machine

/-- The address of a short address `seg:off16`: `(seg << 28) | off16` (R78). -/
def shortAddress (seg : BitVec 4) (off : BitVec 16) : Addr := seg ++ (0 : BitVec 12) ++ off

/-- The address of state `k`: `0x1000_0000 + 16 * k` (R79). -/
def stateAddress (k : BitVec 24) : Addr := 0x10000000 + 16 * k.setWidth 32

/-- The code target of a 24-bit immediate, zero-extended (R79, 40_control.md R100). -/
def codeTarget24 (t : BitVec 24) : Addr := t.setWidth 32

/-- The code target of `LOOP`'s 16-bit immediate, zero-extended (40_control.md R111). -/
def codeTarget16 (t : BitVec 16) : Addr := t.setWidth 32

/-- The number of layers of a range: `((hi - lo) mod 16) + 1` (R82). -/
def rangeCount (lo hi : Reg) : Nat := (hi - lo).val + 1

/-- The layers of a range: `(lo + j) mod 16` for `j = 0 .. count - 1` (R82). -/
def layerRange (lo hi : Reg) : List Reg :=
  (List.range (rangeCount lo hi)).map fun j => ⟨(lo.val + j) % 16, Nat.mod_lt _ (by decide)⟩

/-- All sixteen layers in ascending order (44_layer.md R185). -/
def allLayers : List Reg := [0, 1, 2, 3, 4, 5, 6, 7, 8, 9, 10, 11, 12, 13, 14, 15]

end Sys2Proof.Machine
end

