-- ==== Sys2Proof/Machine/Ops.lean ====
section
/-! DEFINITION. The named operations over registers and memory: raising a fault (the machine's exception entry)
and clearing it, register access, the advance of `pc`, instruction fetch, and the checked data accesses. -/

namespace Sys2Proof.Machine

/-! ### Raising a fault and leaving it (60_exceptions.md R251, R252, R266) -/

/-- `FAULT.code` of a kind (R251). -/
def FaultKind.code : FaultKind → BitVec 8
  | .addressOutOfBounds => 1
  | .invalidSegment => 2
  | .heapOverflow => 3
  | .stackOverflow => 4
  | .stackUnderflow => 5
  | .invalidSensor => 6
  | .invalidActuator => 7
  | .invalidPort => 8
  | .illegalOpcode => 9
  | .illegalOperand => 10
  | .unsupportedOpcode => 11

/-- `raise F(info)`: record the fault and stop; `pc` keeps the address of the faulting instruction and nothing
else changes (R252, R265). -/
def State.raise (s : State) (k : FaultKind) (info : BitVec 32) : State :=
  { s with run := .faulted, fault := ⟨k.code, info⟩ }

/-- The return from a fault: `RUN <- RUNNING`, `FAULT <- (0, 0)`, nothing else, so that the next step retries
the instruction at `pc`; in any other run state nothing happens (R266, 70_reset_and_hazards.md R304). -/
def State.clearFault (s : State) : State :=
  if s.run = .faulted then { s with run := .running, fault := ⟨0, 0⟩ } else s

/-- A fault that an operation found, before anything was written. -/
structure Raised where
  kind : FaultKind
  info : BitVec 32
deriving DecidableEq, Repr

/-- The end of an instruction that may fault: raise what the operation found, else take its effect. -/
def State.attempt {α : Type} (s : State) (r : Except Raised α) (effect : α → State) :
    Host.Outcome State Fault Refusal :=
  match r with
  | .ok v => .next (effect v)
  | .error e => .next (s.raise e.kind e.info)

/-- The fault of a decode that failed at `pc`: a missing byte `k` is a fetch fault at `pc + k`, the two others
carry the offending byte (30_encoding.md R72, 60_exceptions.md R251, R254). -/
def State.raiseDecode (s : State) : DecodeError → State
  | .missing k => s.raise .addressOutOfBounds (s.pc + BitVec.ofNat 32 k)
  | .illegalOpcode op => s.raise .illegalOpcode (op.setWidth 32)
  | .illegalOperand k b => s.raise .illegalOperand (BitVec.ofNat 32 (k * 256 + b.toNat))

/-! ### Registers and `pc` -/

/-- `x[i]` (10_state.md R11). -/
def State.reg (s : State) (i : Reg) : Byte := s.regs.get i

/-- `x[i] <- v` (10_state.md R11). -/
def State.setReg (s : State) (i : Reg) (v : Byte) : State := { s with regs := s.regs.set i v }

/-- Write all sixteen registers at once from values computed beforehand (10_state.md R36). -/
def State.setRegs (s : State) (f : Reg → Byte) : State := { s with regs := Vector.ofFn f }

/-- Write an arithmetic result and its flags (42_arithmetic.md R140, R143). -/
def State.setResult (s : State) (d : Reg) (r : Byte × Bool) : State := (s.setReg d r.1).setZNO r.1 r.2

/-- `next`: add the instruction's width to `pc` (10_state.md R15). -/
def State.advance (s : State) (f : Format) : State := { s with pc := s.pc + BitVec.ofNat 32 f.width }

/-- A control transfer: write `pc` and nothing else (40_control.md R100). -/
def State.jump (s : State) (t : Addr) : State := { s with pc := t }

/-- A conditional jump of Format D.a (40_control.md R105). -/
def State.jumpIf (s : State) (cond : Bool) (t : Addr) : State := if cond then s.jump t else s.advance .da

/-! ### Instruction fetch (20_memory.md R47) -/

/-- `Fetch(a)`: one byte of code, or none where it raises `AddressOutOfBounds(a)` (R47). -/
def State.fetchByte (s : State) (a : Addr) : Option Byte :=
  if segmentOf a = some .code ∧ offsetOf a < s.codeLen then some (s.mem.read a.toNat) else none

/-- The bytes that can be fetched from `a` up, at most `n`, ending at the first that cannot (R47). -/
def State.fetchWindow (s : State) (a : Addr) : Nat → List Byte
  | 0 => []
  | n + 1 =>
    match s.fetchByte a with
    | none => []
    | some b => b :: State.fetchWindow s (a + 1) n

/-- Fetch and decode the instruction at `pc`, at most four bytes (30_encoding.md R72). -/
def State.fetchInstr (s : State) : Except DecodeError Instr := decode (s.fetchWindow s.pc 4)

/-! ### Data memory (20_memory.md R44 to R55) -/

/-- The current extent of a segment for a data read; none where the read is not permitted (R44, R45). -/
def State.readExtent (s : State) : Segment → Option Nat
  | .code => some s.codeLen
  | .stateHeap => some (16 * s.heapLen)
  | .callStack => none
  | .transformTable => some Config.ttSize
  | .ioMapped => some s.cfg.ioPorts

/-- `MemRead(addr, n)`: segment, then permission, then extent (R46, R48). -/
def State.memRead (s : State) (a : Addr) (n : Nat) : Except Raised (List Byte) :=
  match segmentOf a with
  | none => .error ⟨.addressOutOfBounds, a⟩
  | some seg =>
    match s.readExtent seg with
    | none => .error ⟨.invalidSegment, a⟩
    | some ext =>
      if ext < offsetOf a + n then .error ⟨.addressOutOfBounds, a⟩
      else .ok (s.mem.readBytes a.toNat n)

/-- Grow the StateHeap to `len` states if it is shorter, every new state vacuum (R54). -/
def State.growHeap (s : State) (len : Nat) : State :=
  if s.heapLen < len then
    { s with mem := s.mem.clear (heapBase + 16 * s.heapLen) (heapBase + 16 * len), heapLen := len }
  else s

/-- Store bytes at an address whose checks have passed. -/
def State.storeBytes (s : State) (a : Addr) (vs : List Byte) : State :=
  { s with mem := s.mem.writeBytes a.toNat vs }

/-- `MemWrite(addr, n, v)` with `v` the `n` bytes: all checks come before any write (R46, R49, R50, R54). -/
def State.memWrite (s : State) (a : Addr) (vs : List Byte) : Except Raised State :=
  match segmentOf a with
  | none => .error ⟨.addressOutOfBounds, a⟩
  | some .code => .error ⟨.invalidSegment, a⟩
  | some .stateHeap =>
    let k := (offsetOf a + vs.length - 1) / 16
    if s.cfg.heapCap ≤ k then .error ⟨.heapOverflow, a⟩
    else .ok ((s.growHeap (k + 1)).storeBytes a vs)
  | some .callStack => .error ⟨.invalidSegment, a⟩
  | some .transformTable =>
    if Config.ttSize < offsetOf a + vs.length then .error ⟨.addressOutOfBounds, a⟩
    else .ok (s.storeBytes a vs)
  | some .ioMapped =>
    if s.cfg.ioPorts < offsetOf a + vs.length then .error ⟨.addressOutOfBounds, a⟩
    else .ok (s.storeBytes a vs)

end Sys2Proof.Machine
end

