-- ==== Sys2Proof/Machine/Arithmetic.lean ====
section
/-! DEFINITION. The Arithmetic instructions (42_arithmetic.md R140 to R166): each writes `Rd`, then `Z`, `N`
and `O`, then advances `pc`; none faults at execution (R142). -/

namespace Sys2Proof.Machine

/-- `MUL Rd, Rs` (R150). -/
def execMul (d r : Reg) (s : State) : Host.Outcome State Fault Refusal :=
  .next ((s.setResult d (mulOp (s.reg d) (s.reg r))).advance .c)

/-- `DIV Rd, Rs` (R151). -/
def execDiv (d r : Reg) (s : State) : Host.Outcome State Fault Refusal :=
  .next ((s.setResult d (divOp (s.reg d) (s.reg r))).advance .c)

/-- `POW Rd, n` (R152). -/
def execPow (d : Reg) (n : Byte) (s : State) : Host.Outcome State Fault Refusal :=
  .next ((s.setResult d (powOp (s.reg d) n)).advance .c)

/-- `ROOT Rd, n` (R153). The index 0, which the decoder already refuses, is the same `IllegalOperand(0x0200)`
here (log 10). -/
def execRoot (d : Reg) (n : Byte) (s : State) : Host.Outcome State Fault Refusal :=
  if n = 0 then .next (s.raise .illegalOperand 0x0200)
  else .next ((s.setResult d (rootOp (s.reg d) n)).advance .c)

/-- `INV Rd` (R154). -/
def execInv (d : Reg) (s : State) : Host.Outcome State Fault Refusal :=
  .next ((s.setResult d (invOp (s.reg d))).advance .b)

/-- `CONJ Rd` (R155). -/
def execConj (d : Reg) (s : State) : Host.Outcome State Fault Refusal :=
  .next ((s.setResult d (conjOp (s.reg d))).advance .b)

/-- `ADD Rd, Rs` (R165). -/
def execAdd (d r : Reg) (s : State) : Host.Outcome State Fault Refusal :=
  .next ((s.setResult d (cadd (s.reg d) (s.reg r))).advance .c)

/-- `SUB Rd, Rs`: add the exact negative (R166). -/
def execSub (d r : Reg) (s : State) : Host.Outcome State Fault Refusal :=
  .next ((s.setResult d (cadd (s.reg d) (negate (s.reg r)))).advance .c)

/-- `MAG Rd` (R156). -/
def execMag (d : Reg) (s : State) : Host.Outcome State Fault Refusal :=
  .next ((s.setResult d (magOp (s.reg d))).advance .b)

/-- `PHASE Rd` (R157). -/
def execPhase (d : Reg) (s : State) : Host.Outcome State Fault Refusal :=
  .next ((s.setResult d (phaseOp (s.reg d))).advance .b)

/-- `SCALE Rd, s8` (R158). -/
def execScale (d : Reg) (delta : Byte) (s : State) : Host.Outcome State Fault Refusal :=
  .next ((s.setResult d (scaleOp (s.reg d) delta)).advance .c)

/-- `ROTATE Rd, s8` (R159). -/
def execRotate (d : Reg) (delta : Byte) (s : State) : Host.Outcome State Fault Refusal :=
  .next ((s.setResult d (rotateOp (s.reg d) delta)).advance .c)

end Sys2Proof.Machine
end

