-- ==== Sys2Proof/Machine/Control.lean ====
section
/-! DEFINITION. The Control instructions (40_control.md R100 to R111). -/

namespace Sys2Proof.Machine

/-- `NOP` (R101). -/
def execNop (s : State) : Host.Outcome State Fault Refusal := .next (s.advance .a)

/-- `HLT`: `RUN <- HALTED`; `pc` keeps the address of this `HLT` (R102). -/
def execHlt (s : State) : Host.Outcome State Fault Refusal := .next { s with run := .halted }

/-- `YIELD`: `pc` moves past it and `RUN <- YIELDED` (R103). -/
def execYield (s : State) : Host.Outcome State Fault Refusal := .next { s.advance .a with run := .yielded }

/-- `JMP t24` (R104). -/
def execJmp (t : BitVec 24) (s : State) : Host.Outcome State Fault Refusal := .next (s.jump (codeTarget24 t))

/-- `JZ t24` (R105). -/
def execJz (t : BitVec 24) (s : State) : Host.Outcome State Fault Refusal :=
  .next (s.jumpIf s.sr.z (codeTarget24 t))

/-- `JN t24` (R106). -/
def execJn (t : BitVec 24) (s : State) : Host.Outcome State Fault Refusal :=
  .next (s.jumpIf s.sr.n (codeTarget24 t))

/-- `JC t24` (R107). -/
def execJc (t : BitVec 24) (s : State) : Host.Outcome State Fault Refusal :=
  .next (s.jumpIf s.sr.c (codeTarget24 t))

/-- `JO t24` (R108). -/
def execJo (t : BitVec 24) (s : State) : Host.Outcome State Fault Refusal :=
  .next (s.jumpIf s.sr.o (codeTarget24 t))

/-- `CALL t24`: push `(pc + 4, FP)`, set `FP` to the depth of the value stack, jump; `StackOverflow(1)` on a
full call stack (R109). `FP` is 32 bits wide (10_state.md R21; log 12). -/
def execCall (t : BitVec 24) (s : State) : Host.Outcome State Fault Refusal :=
  if s.cs.length = s.cfg.cstackCap then .next (s.raise .stackOverflow 1)
  else .next
    { s with
      cs := s.cs ++ [⟨s.pc + 4, s.fp⟩]
      fp := BitVec.ofNat 32 s.vs.length
      pc := codeTarget24 t }

/-- `RET`: pop a frame, restore `FP`, jump to its return address; `StackUnderflow(1)` on an empty call stack
(R110). -/
def execRet (s : State) : Host.Outcome State Fault Refusal :=
  match s.cs.getLast? with
  | none => .next (s.raise .stackUnderflow 1)
  | some f => .next { s with cs := s.cs.dropLast, fp := f.fp, pc := f.ret }

/-- `LOOP Rc, t16`: decrement the packed byte as an unsigned count and branch if it is not 0; no flag changes
(R111). -/
def execLoop (c : Reg) (t : BitVec 16) (s : State) : Host.Outcome State Fault Refusal :=
  let n := s.reg c - 1
  let s' := s.setReg c n
  .next (if n ≠ 0 then s'.jump (codeTarget16 t) else s'.advance .dm)

end Sys2Proof.Machine
end

