-- ==== Sys2Proof/Machine/Data.lean ====
section
/-! DEFINITION. The Data instructions (41_data.md R120 to R128); none reads or writes a flag. -/

namespace Sys2Proof.Machine

/-- `MOV Rd, Rs` (R121). -/
def execMov (d r : Reg) (s : State) : Host.Outcome State Fault Refusal :=
  .next ((s.setReg d (s.reg r)).advance .c)

/-- `MOVI Rd, b8` (R122). -/
def execMovi (d : Reg) (v : Byte) (s : State) : Host.Outcome State Fault Refusal :=
  .next ((s.setReg d v).advance .c)

/-- `LOAD Rd, [seg:off16]` (R123). -/
def execLoad (seg : BitVec 4) (d : Reg) (off : BitVec 16) (s : State) : Host.Outcome State Fault Refusal :=
  s.attempt (s.memRead (shortAddress seg off) 1) fun bs => (s.setReg d (bs.getD 0 0)).advance .dm

/-- `STORE [seg:off16], Rs` (R124). -/
def execStore (seg : BitVec 4) (r : Reg) (off : BitVec 16) (s : State) : Host.Outcome State Fault Refusal :=
  s.attempt (s.memWrite (shortAddress seg off) [s.reg r]) fun t => t.advance .dm

/-- `PUSH Rs`; `StackOverflow(0)` on a full value stack (R125). -/
def execPush (r : Reg) (s : State) : Host.Outcome State Fault Refusal :=
  if s.vs.length = s.cfg.vstackCap then .next (s.raise .stackOverflow 0)
  else .next (State.advance { s with vs := s.vs ++ [s.reg r] } .b)

/-- `POP Rd`; `StackUnderflow(0)` on an empty value stack (R126). -/
def execPop (d : Reg) (s : State) : Host.Outcome State Fault Refusal :=
  match s.vs.getLast? with
  | none => .next (s.raise .stackUnderflow 0)
  | some v => .next (State.advance { s.setReg d v with vs := s.vs.dropLast } .b)

/-- `LSTATE k24`: byte `j` of heap state `k` to register `Rj` (R127). -/
def execLstate (k : BitVec 24) (s : State) : Host.Outcome State Fault Refusal :=
  s.attempt (s.memRead (stateAddress k) 16) fun bs => (s.setRegs fun j => bs.getD j.val 0).advance .da

/-- `SSTATE k24`: register `Rj` to byte `j` of heap state `k` (R128). -/
def execSstate (k : BitVec 24) (s : State) : Host.Outcome State Fault Refusal :=
  s.attempt (s.memWrite (stateAddress k) (allLayers.map s.reg)) fun t => t.advance .da

end Sys2Proof.Machine
end

