-- ==== Sys2Proof/Machine/Hint.lean ====
section
/-! DEFINITION. The Hardware-Hint instructions (47_hint.md R235 to R245): each executes as `next` and the core
keeps no hint state. -/

namespace Sys2Proof.Machine

/-- `HINT.CPU` (R237). -/
def execHintCpu (s : State) : Host.Outcome State Fault Refusal := .next (s.advance .a)

/-- `HINT.GPU` (R238). -/
def execHintGpu (s : State) : Host.Outcome State Fault Refusal := .next (s.advance .a)

/-- `HINT.NPU` (R239). -/
def execHintNpu (s : State) : Host.Outcome State Fault Refusal := .next (s.advance .a)

/-- `HINT.FPGA` (R240). -/
def execHintFpga (s : State) : Host.Outcome State Fault Refusal := .next (s.advance .a)

/-- `HINT.DSP` (R241). -/
def execHintDsp (s : State) : Host.Outcome State Fault Refusal := .next (s.advance .a)

/-- `BATCH.BEGIN` (R244). -/
def execBatchBegin (s : State) : Host.Outcome State Fault Refusal := .next (s.advance .a)

/-- `BATCH.END` (R245). -/
def execBatchEnd (s : State) : Host.Outcome State Fault Refusal := .next (s.advance .a)

/-- `PREFETCH`: its immediate is never used as an address (R242). -/
def execPrefetch (s : State) : Host.Outcome State Fault Refusal := .next (s.advance .da)

/-- `FENCE`: there is nothing to order (R243). -/
def execFence (s : State) : Host.Outcome State Fault Refusal := .next (s.advance .a)

end Sys2Proof.Machine
end

