-- ==== Sys2Proof/Machine/Layer.lean ====
section
/-! DEFINITION. The Layer instructions (44_layer.md R185 to R193): the register file as one SilState, all
sixteen old values read before any write; none faults at execution. -/

namespace Sys2Proof.Machine

/-- Combine the bytes of some layers, left to right, from a starting value (R186, R193). -/
def State.reduce (s : State) (op : Byte → Byte → Byte) (start : Byte) (ls : List Reg) : Byte :=
  ls.foldl (fun acc i => op acc (s.reg i)) start

/-- `XORL Rd` (R186). -/
def execXorl (d : Reg) (s : State) : Host.Outcome State Fault Refusal :=
  .next ((s.setResult d (s.reduce (· ^^^ ·) 0x00 allLayers, false)).advance .b)

/-- `ANDL Rd` (R187). -/
def execAndl (d : Reg) (s : State) : Host.Outcome State Fault Refusal :=
  .next ((s.setResult d (s.reduce (· &&& ·) 0xFF allLayers, false)).advance .b)

/-- `ORL Rd` (R188). -/
def execOrl (d : Reg) (s : State) : Host.Outcome State Fault Refusal :=
  .next ((s.setResult d (s.reduce (· ||| ·) 0x00 allLayers, false)).advance .b)

/-- `ROTL n4`: layer `i` moves to layer `(i + n) mod 16`, so layer `j` takes the old layer `(j - n) mod 16`
(R189). -/
def execRotl (n : Reg) (s : State) : Host.Outcome State Fault Refusal :=
  .next ((s.setRegs fun j => s.reg (j - n)).advance .b)

/-- What `FOLD` makes of a pair of layers; overflow bits are discarded (R190). -/
def foldPair : FoldMode → Byte → Byte → Byte
  | .xor, a, b => a ^^^ b
  | .cadd, a, b => (cadd a b).1
  | .cmul, a, b => (mulOp a b).1

/-- `FOLD fm`: layer `i` below 8 takes the combination of layers `i` and `i + 8`; layers 8 to 15 and the flags
stay (R190). -/
def execFold (m : FoldMode) (s : State) : Host.Outcome State Fault Refusal :=
  .next ((s.setRegs fun i => if i.val < 8 then foldPair m (s.reg i) (s.reg (i + 8)) else s.reg i).advance .b)

/-- `SPREAD Rs, rng`: every layer of the range takes the old `Rs` (R191). -/
def execSpread (r lo hi : Reg) (s : State) : Host.Outcome State Fault Refusal :=
  .next ((s.setRegs fun i => if i ∈ layerRange lo hi then s.reg r else s.reg i).advance .c)

/-- `GATHER Rd, rng`: the XOR of the range's layers (R192). -/
def execGather (d lo hi : Reg) (s : State) : Host.Outcome State Fault Refusal :=
  .next ((s.setResult d (s.reduce (· ^^^ ·) 0x00 (layerRange lo hi), false)).advance .c)

end Sys2Proof.Machine
end

