-- ==== Sys2Proof/Machine/SystemIO.lean ====
section
/-! DEFINITION. The System/IO instructions (46_system_io.md R220 to R226). -/

namespace Sys2Proof.Machine

/-- `SENSE Rd, ix`: the index is checked first; then a stream byte if the stream has one, else the sensor slot;
`E` tells an exhausted stream (R221). -/
def execSense (d : Reg) (ix : Byte) (s : State) : Host.Outcome State Fault Refusal :=
  if 16 ≤ ix.toNat then .next (s.raise .invalidSensor (ix.setWidth 32))
  else if s.instream.attached = true ∧ s.instream.pos < s.instream.bytes.length then
    let t := s.setReg d (s.instream.bytes.getD s.instream.pos 0)
    .next ((State.setE { t with instream := { t.instream with pos := t.instream.pos + 1 } } false).advance .c)
  else if s.instream.attached = true then
    .next (((s.setReg d (s.sensor.get (lowNibble ix))).setE true).advance .c)
  else .next (((s.setReg d (s.sensor.get (lowNibble ix))).setE false).advance .c)

/-- `ACT ix, Rs`: write the actuator slot and append to the log (R222). -/
def execAct (ix : Byte) (r : Reg) (s : State) : Host.Outcome State Fault Refusal :=
  if 16 ≤ ix.toNat then .next (s.raise .invalidActuator (ix.setWidth 32))
  else .next (State.advance
    { s with
      actuator := s.actuator.set (lowNibble ix) (s.reg r)
      outlog := s.outlog ++ [⟨lowNibble ix, s.reg r⟩] } .c)

/-- `SYNC`, a stub (R223). -/
def execSync (s : State) : Host.Outcome State Fault Refusal := .next (s.advance .a)

/-- `BROADCAST`, a stub (R224). -/
def execBroadcast (s : State) : Host.Outcome State Fault Refusal := .next (s.advance .b)

/-- `RECEIVE`, a stub: nothing is received and no register is written (R225). -/
def execReceive (s : State) : Host.Outcome State Fault Refusal := .next (s.advance .b)

/-- `ENTANGLE`, a stub (R226). -/
def execEntangle (s : State) : Host.Outcome State Fault Refusal := .next (s.advance .c)

end Sys2Proof.Machine
end

