-- ==== Sys2Proof/Machine/Transform.lean ====
section
/-! DEFINITION. The Transform and Compatibility instructions (45_transform_compat.md R200 to R212). The
unsupported ones raise `UnsupportedOpcode` with their opcode byte, which is their whole effect (R200, R210); the
two stubs are no-ops. -/

namespace Sys2Proof.Machine

/-- `TRANS` (R201). -/
def execTrans (s : State) : Host.Outcome State Fault Refusal := .next (s.raise .unsupportedOpcode 0x80)

/-- `PIPE` (R202). -/
def execPipe (s : State) : Host.Outcome State Fault Refusal := .next (s.raise .unsupportedOpcode 0x81)

/-- `LERP` (R203). -/
def execLerp (s : State) : Host.Outcome State Fault Refusal := .next (s.raise .unsupportedOpcode 0x82)

/-- `SLERP` (R204). -/
def execSlerp (s : State) : Host.Outcome State Fault Refusal := .next (s.raise .unsupportedOpcode 0x83)

/-- `GRAD` (R205). -/
def execGrad (s : State) : Host.Outcome State Fault Refusal := .next (s.raise .unsupportedOpcode 0x84)

/-- `DESCENT` (R206). -/
def execDescent (s : State) : Host.Outcome State Fault Refusal := .next (s.raise .unsupportedOpcode 0x85)

/-- `EMERGE`, a stub (R207). -/
def execEmerge (s : State) : Host.Outcome State Fault Refusal := .next (s.advance .a)

/-- `COLLAPSE`, a stub; it does not write the flag `C` (R208). -/
def execCollapse (s : State) : Host.Outcome State Fault Refusal := .next (s.advance .a)

/-- `PROMOTE` (R211). -/
def execPromote (s : State) : Host.Outcome State Fault Refusal := .next (s.raise .unsupportedOpcode 0xA0)

/-- `DEMOTE` (R212). -/
def execDemote (s : State) : Host.Outcome State Fault Refusal := .next (s.raise .unsupportedOpcode 0xA1)

end Sys2Proof.Machine
end

