-- ==== Sys2Proof/Machine/Dispatch.lean ====
section
/-! DEFINITION. One instruction of the core: each row of the opcode table to its meaning. -/

namespace Sys2Proof.Machine

def exec (i : Instr) (s : State) : Host.Outcome State Fault Refusal :=
  match i with
  | .nop => Sys2Proof.Machine.execNop s
  | .hlt => Sys2Proof.Machine.execHlt s
  | .ret => Sys2Proof.Machine.execRet s
  | .yield => Sys2Proof.Machine.execYield s
  | .jmp target => Sys2Proof.Machine.execJmp target s
  | .jz target => Sys2Proof.Machine.execJz target s
  | .jn target => Sys2Proof.Machine.execJn target s
  | .jc target => Sys2Proof.Machine.execJc target s
  | .jo target => Sys2Proof.Machine.execJo target s
  | .call target => Sys2Proof.Machine.execCall target s
  | .loop c target => Sys2Proof.Machine.execLoop c target s
  | .mov d r => Sys2Proof.Machine.execMov d r s
  | .movi d v => Sys2Proof.Machine.execMovi d v s
  | .load seg d off => Sys2Proof.Machine.execLoad seg d off s
  | .store seg r off => Sys2Proof.Machine.execStore seg r off s
  | .push r => Sys2Proof.Machine.execPush r s
  | .pop d => Sys2Proof.Machine.execPop d s
  | .lstate k => Sys2Proof.Machine.execLstate k s
  | .sstate k => Sys2Proof.Machine.execSstate k s
  | .mul d r => Sys2Proof.Machine.execMul d r s
  | .div d r => Sys2Proof.Machine.execDiv d r s
  | .pow d n => Sys2Proof.Machine.execPow d n s
  | .root d n => Sys2Proof.Machine.execRoot d n s
  | .inv d => Sys2Proof.Machine.execInv d s
  | .conj d => Sys2Proof.Machine.execConj d s
  | .add d r => Sys2Proof.Machine.execAdd d r s
  | .sub d r => Sys2Proof.Machine.execSub d r s
  | .mag d => Sys2Proof.Machine.execMag d s
  | .phase d => Sys2Proof.Machine.execPhase d s
  | .scale d delta => Sys2Proof.Machine.execScale d delta s
  | .rotate d delta => Sys2Proof.Machine.execRotate d delta s
  | .xorl d => Sys2Proof.Machine.execXorl d s
  | .andl d => Sys2Proof.Machine.execAndl d s
  | .orl d => Sys2Proof.Machine.execOrl d s
  | .rotl n => Sys2Proof.Machine.execRotl n s
  | .fold m => Sys2Proof.Machine.execFold m s
  | .spread r lo hi => Sys2Proof.Machine.execSpread r lo hi s
  | .gather d lo hi => Sys2Proof.Machine.execGather d lo hi s
  | .trans => Sys2Proof.Machine.execTrans s
  | .pipe => Sys2Proof.Machine.execPipe s
  | .lerp => Sys2Proof.Machine.execLerp s
  | .slerp => Sys2Proof.Machine.execSlerp s
  | .grad => Sys2Proof.Machine.execGrad s
  | .descent => Sys2Proof.Machine.execDescent s
  | .emerge => Sys2Proof.Machine.execEmerge s
  | .collapse => Sys2Proof.Machine.execCollapse s
  | .promote => Sys2Proof.Machine.execPromote s
  | .demote => Sys2Proof.Machine.execDemote s
  | .sense d ix => Sys2Proof.Machine.execSense d ix s
  | .act ix r => Sys2Proof.Machine.execAct ix r s
  | .sync => Sys2Proof.Machine.execSync s
  | .broadcast => Sys2Proof.Machine.execBroadcast s
  | .receive => Sys2Proof.Machine.execReceive s
  | .entangle => Sys2Proof.Machine.execEntangle s
  | .hintCpu => Sys2Proof.Machine.execHintCpu s
  | .hintGpu => Sys2Proof.Machine.execHintGpu s
  | .hintNpu => Sys2Proof.Machine.execHintNpu s
  | .hintFpga => Sys2Proof.Machine.execHintFpga s
  | .hintDsp => Sys2Proof.Machine.execHintDsp s
  | .batchBegin => Sys2Proof.Machine.execBatchBegin s
  | .batchEnd => Sys2Proof.Machine.execBatchEnd s
  | .prefetch => Sys2Proof.Machine.execPrefetch s
  | .fence => Sys2Proof.Machine.execFence s

end Sys2Proof.Machine
end

