-- ==== Sys2Proof/Machine/Step.lean ====
section
/-! DEFINITION. One step of the core (70_reset_and_hazards.md R301), and the placing of one instruction where
the next step fetches. -/

namespace Sys2Proof.Machine

/-- `Step`: while `RUN = RUNNING`, fetch and decode the instruction at `pc` and execute it, or raise the decode
fault; in any other run state nothing happens (R301; 30_encoding.md R72; log 4). -/
def step (s : State) : Host.Outcome State Fault Refusal :=
  match s.run with
  | .running =>
    match s.fetchInstr with
    | .error e => .next (s.raiseDecode e)
    | .ok i => exec i s
  | _ => .next s

/-- The state with one instruction stored where `step` fetches next. It stands for a `Load` of that code
(log 7): four code bytes at `pc`, `CODE_LEN` reaching past them, `RUN = RUNNING` with no fault recorded. A `pc`
from which four bytes would not lie inside `CODE_MAX` becomes 0. -/
def State.withFetchWord (s : State) (nbits w : Nat) : State :=
  let pc : BitVec 32 := if s.pc.toNat + 4 ≤ Config.codeMax then s.pc else 0
  { s with
    pc := pc
    run := .running
    fault := if s.run = .faulted then ⟨0, 0⟩ else s.fault
    mem := s.mem.writeBytes pc.toNat (tableBytes nbits w)
    codeLen := max s.codeLen (pc.toNat + 4) }

end Sys2Proof.Machine
end

