-- ==== Sys2Proof/Machine/HostPort.lean ====
section
/-! DEFINITION. The host interface: every operation of 70_reset_and_hazards.md R290 to R312, each a function on
State that acts between steps (R300). `State.clearFault` (R304) stands beside `State.raise` in Machine/Ops.lean
and `Step` (R301) is `step`. A refused operation answers a HostError and there is no new state, so it changes
nothing (60_exceptions.md R256, 93_implementation_defined.md U13; log 14). -/

namespace Sys2Proof.Machine

/-- Why a host operation, a load or a loader refuses. -/
inductive HostError where
  /-- Invalid-bytecode: a malformed image, or code above `CODE_MAX` (60 R255, 70 R292, R325). -/
  | invalidBytecode
  /-- A data segment that needs more than `HEAP_CAP` states (R292). -/
  | heapOverflow
  /-- A sensor index of 16 or more (60 R256). -/
  | invalidSensor
  /-- An actuator index of 16 or more (60 R256). -/
  | invalidActuator
  /-- A port index of `IO_PORTS` or more (60 R256). -/
  | invalidPort
  /-- A register index of 16 or more (70 R306). -/
  | invalidRegister
  /-- A heap state that does not exist (70 R307). -/
  | invalidHeapState
  /-- A capacity outside its legal range or below what is in use (70 R309). -/
  | invalidConfig
deriving DecidableEq, Repr

/-! ### Reset, load, run -/

/-- `Reset`: every piece of state at its reset value, the configuration kept (R290). -/
def hostReset (s : State) : State := State.resetWith s.cfg

/-- The number of SilStates of a data segment: `ceil(len / 16)` (R292). -/
def dataStates (data : List Byte) : Nat := (data.length + 15) / 16

/-- `Load(code, data, entry, mode)` (R292). The last data chunk is padded with `0x00`, which is what unlisted
memory reads. -/
def hostLoad (code data : List Byte) (entry : Addr) (mode : BitVec 16) (s : State) : Except HostError State :=
  if Config.codeMax < code.length then .error .invalidBytecode
  else if s.cfg.heapCap < dataStates data then .error .heapOverflow
  else .ok
    { hostReset s with
      mem := Memory.ofBytes codeBase code ++ Memory.ofBytes heapBase data
      codeLen := code.length
      heapLen := dataStates data
      pc := entry
      mode := mode }

/-- `Run` under fuel: step while `RUN = RUNNING` (R302; log 20). -/
def hostRun : Nat → State → Host.Outcome State Fault Refusal
  | 0, s => .next s
  | fuel + 1, s =>
    if s.run = .running then
      match step s with
      | .next t => hostRun fuel t
      | o => o
    else .next s

/-- `Resume`: acts only if `RUN = YIELDED` (R303). -/
def hostResume (s : State) : State := if s.run = .yielded then { s with run := .running } else s

/-- `ClearFault` (R304). -/
def hostClearFault (s : State) : State := s.clearFault

/-! ### Registers and flags -/

/-- `ReadSR` (R305). -/
def readSR (s : State) : Byte := s.sr.toByte

/-- `WriteSR(v)`: `SR <- v & 0x1F` (R305). -/
def writeSR (v : Byte) (s : State) : State := { s with sr := SR.ofByte v }

/-- `ReadReg(i)` (R306). -/
def readReg (i : Nat) (s : State) : Except HostError Byte :=
  if h : i < 16 then .ok (s.reg ⟨i, h⟩) else .error .invalidRegister

/-- `WriteReg(i, v)` (R306). -/
def writeReg (i : Nat) (v : Byte) (s : State) : Except HostError State :=
  if h : i < 16 then .ok (s.setReg ⟨i, h⟩ v) else .error .invalidRegister

/-- `ReadState`: all sixteen registers (R306). -/
def readState (s : State) : Vector Byte 16 := s.regs

/-- `WriteState(v)`: all sixteen registers at once (R306). -/
def writeState (v : Vector Byte 16) (s : State) : State := { s with regs := v }

/-! ### Observation (R307) -/

/-- `ReadPC`. -/
def readPC (s : State) : Addr := s.pc

/-- `ReadFP`. -/
def readFP (s : State) : BitVec 32 := s.fp

/-- `ReadMode`. -/
def readMode (s : State) : BitVec 16 := s.mode

/-- The value of a run state (10_state.md R23). -/
def Run.value : Run → Nat
  | .running => 0
  | .yielded => 1
  | .halted => 2
  | .faulted => 3

/-- `ReadRun`. -/
def readRun (s : State) : Nat := s.run.value

/-- `ReadFault`. -/
def readFault (s : State) : FaultRec := s.fault

/-- `ReadDepths`: `(VDEPTH, CDEPTH, HEAP_LEN, CODE_LEN)`. -/
def readDepths (s : State) : Nat × Nat × Nat × Nat := (s.vs.length, s.cs.length, s.heapLen, s.codeLen)

/-- `ReadHeap(k)`: the sixteen bytes of a state that exists; never grows the heap. -/
def readHeap (k : Nat) (s : State) : Except HostError (List Byte) :=
  if k < s.heapLen then .ok (s.mem.readBytes (heapBase + 16 * k) 16) else .error .invalidHeapState

/-- `ReadStacks`: the contents of `VS` and `CS`. -/
def readStacks (s : State) : List Byte × List Frame := (s.vs, s.cs)

/-! ### Devices -/

/-- `WriteSensor(i, v)` (R308). -/
def writeSensor (i : Nat) (v : Byte) (s : State) : Except HostError State :=
  if h : i < 16 then .ok { s with sensor := s.sensor.set i v } else .error .invalidSensor

/-- `ReadSensor(i)` (R308). -/
def readSensor (i : Nat) (s : State) : Except HostError Byte :=
  if h : i < 16 then .ok (s.sensor.get ⟨i, h⟩) else .error .invalidSensor

/-- `ReadActuator(i)` (R308). -/
def readActuator (i : Nat) (s : State) : Except HostError Byte :=
  if h : i < 16 then .ok (s.actuator.get ⟨i, h⟩) else .error .invalidActuator

/-- `DrainLog`: the whole log, oldest entry first, which is then empty (R310). -/
def drainLog (s : State) : List LogEntry × State := (s.outlog, { s with outlog := [] })

/-- `AttachStream(bytes)`, replacing any stream attached before (R311). -/
def attachStream (bytes : List Byte) (s : State) : State := { s with instream := ⟨true, bytes, 0⟩ }

/-- `DetachStream` (R311). -/
def detachStream (s : State) : State := { s with instream := ⟨false, [], 0⟩ }

/-- `ReadStream`: `(IN_ATTACHED, IN_POS, IN_LEN)` (R311). -/
def readStream (s : State) : Bool × Nat × Nat := (s.instream.attached, s.instream.pos, s.instream.bytes.length)

/-- The stream is exhausted: attached, and its position at its end (10_state.md R33, R311). -/
def streamExhausted (s : State) : Bool := s.instream.attached && s.instream.pos == s.instream.bytes.length

/-- `ReadPort(i)` (R312). -/
def readPort (i : Nat) (s : State) : Except HostError Byte :=
  if i < s.cfg.ioPorts then .ok (s.mem.read (ioBase + i)) else .error .invalidPort

/-- `WritePort(i, v)` (R312). -/
def writePort (i : Nat) (v : Byte) (s : State) : Except HostError State :=
  if i < s.cfg.ioPorts then .ok { s with mem := s.mem.write (ioBase + i) v } else .error .invalidPort

/-! ### Configuration (R309) -/

/-- The parameters `SetConfig` may name; `CODE_MAX` may not be set at all and has no name here. -/
inductive ConfigName where
  | heapCap | vstackCap | cstackCap | ioPorts | ttSize
deriving DecidableEq, Repr

/-- `SetConfig(name, value)`: refused outside the legal range of 00_scope.md R4 or below what is in use. Raising
`IO_PORTS` adds ports that hold `0x00`, lowering it removes the highest-numbered ones; `TT_SIZE` may only be
set to 0 (R309). -/
def setConfig (name : ConfigName) (v : Nat) (s : State) : Except HostError State :=
  match name with
  | .heapCap =>
    if v ≤ Config.heapCapMax ∧ s.heapLen ≤ v then .ok { s with cfg := { s.cfg with heapCap := v } }
    else .error .invalidConfig
  | .vstackCap =>
    if v ≤ Config.stackCapMax ∧ s.vs.length ≤ v then .ok { s with cfg := { s.cfg with vstackCap := v } }
    else .error .invalidConfig
  | .cstackCap =>
    if v ≤ Config.stackCapMax ∧ s.cs.length ≤ v then .ok { s with cfg := { s.cfg with cstackCap := v } }
    else .error .invalidConfig
  | .ioPorts =>
    if v ≤ Config.ioPortsMax then .ok
      { s with
        cfg := { s.cfg with ioPorts := v }
        mem := s.mem.clear (ioBase + min v s.cfg.ioPorts) (ioBase + max v s.cfg.ioPorts) }
    else .error .invalidConfig
  | .ttSize => if v = Config.ttSize then .ok s else .error .invalidConfig

end Sys2Proof.Machine
end

