-- ==== Sys2Proof/Machine/Container.lean ====
section
/-! DEFINITION. The `.silc` container as far as a loader needs it (70_reset_and_hazards.md R320 to R325): the
header, the checksum, the symbol table, the debug block, and the load of a file. Loader software: nothing here
is reached by a step. -/

namespace Sys2Proof.Machine

/-- A little-endian number of any length (R320). -/
def leNat : List Byte → Nat
  | [] => 0
  | b :: bs => b.toNat + 256 * leNat bs

/-- The `n` bytes of a file from offset `o` up, fewer where it ends. -/
def slice (f : List Byte) (o n : Nat) : List Byte := (f.drop o).take n

/-- The file bytes 0 to 3: ASCII "SILC" (R320, 90_conflicts.md C3). -/
def silcMagic : List Byte := [0x53, 0x49, 0x4C, 0x43]

/-- The header fields of R320 after the magic. -/
structure SilcHeader where
  version    : Nat
  mode       : BitVec 16
  codeSize   : Nat
  dataSize   : Nat
  symbolSize : Nat
  entry      : Addr
  checksum   : BitVec 64
deriving DecidableEq, Repr

/-- Read the header at the offsets of R320. -/
def readHeader (f : List Byte) : SilcHeader where
  version    := leNat (slice f 4 2)
  mode       := BitVec.ofNat 16 (leNat (slice f 6 2))
  codeSize   := leNat (slice f 8 4)
  dataSize   := leNat (slice f 12 4)
  symbolSize := leNat (slice f 16 4)
  entry      := BitVec.ofNat 32 (leNat (slice f 20 4))
  checksum   := BitVec.ofNat 64 (leNat (slice f 24 8))

/-- The FNV-1a offset basis: general knowledge that the spec adopts and marks (R321; PRESUMED, log 15). -/
def fnvBasis : BitVec 64 := 0xcbf29ce484222325

/-- The FNV-1a prime (R321; PRESUMED, log 15). -/
def fnvPrime : BitVec 64 := 0x100000001b3

/-- One byte of FNV-1a: XOR it in, then multiply (R321). -/
def fnvStep (h : BitVec 64) (c : Byte) : BitVec 64 := (h ^^^ c.setWidth 64) * fnvPrime

/-- The 64-bit FNV-1a hash of a byte string (R321). -/
def fnv1a (bs : List Byte) : BitVec 64 := bs.foldl fnvStep fnvBasis

/-- The kind tags of a symbol, 0 to 3 in this order (R323). -/
inductive SymbolKind where
  | label | data | transform | function
deriving DecidableEq, Repr

/-- The kind of a tag byte; a tag above 3 makes the table corrupt (R323). -/
def symbolKindOf (b : Byte) : Option SymbolKind :=
  match b.toNat with
  | 0 => some .label
  | 1 => some .data
  | 2 => some .transform
  | 3 => some .function
  | _ => none

/-- One symbol: its name's bytes, address and kind (R323). -/
structure Symbol where
  name : List Byte
  addr : Addr
  kind : SymbolKind
deriving DecidableEq, Repr

/-- The `n` symbols of a table body; a length that reads past the end is refused (R323). -/
def readSymbols : Nat → List Byte → Except HostError (List Symbol)
  | 0, _ => .ok []
  | n + 1, bs =>
    let len := leNat (slice bs 0 2)
    if bs.length < 2 + len + 5 then .error .invalidBytecode
    else
      match symbolKindOf (bs.getD (2 + len + 4) 0) with
      | none => .error .invalidBytecode
      | some k =>
        match readSymbols n (bs.drop (2 + len + 5)) with
        | .error e => .error e
        | .ok rest =>
          .ok (⟨slice bs 2 len, BitVec.ofNat 32 (leNat (slice bs (2 + len) 4)), k⟩ :: rest)

/-- A serialized symbol table: a 4-byte count, then the symbols; no bytes at all are an empty table (R323). -/
def readSymbolTable (bs : List Byte) : Except HostError (List Symbol) :=
  if bs = [] then .ok []
  else if bs.length < 4 then .error .invalidBytecode
  else readSymbols (leNat (slice bs 0 4)) (bs.drop 4)

/-- The debug block: source file name and `(line, address)` pairs (R324). -/
structure DebugBlock where
  file  : List Byte
  lines : List (Nat × Nat)
deriving DecidableEq, Repr

/-- The `n` pairs of a debug block's body (R324). -/
def readLines : Nat → List Byte → List (Nat × Nat)
  | 0, _ => []
  | n + 1, bs => (leNat (slice bs 0 4), leNat (slice bs 4 4)) :: readLines n (bs.drop 8)

/-- A debug block, absent where the file ends before it; a length or a count that reads past the end is
refused (R324, R325). -/
def readDebugBlock (bs : List Byte) : Except HostError (Option DebugBlock) :=
  if bs = [] then .ok none
  else
    let len := leNat (slice bs 0 2)
    if bs.length < 2 + len + 4 then .error .invalidBytecode
    else
      let count := leNat (slice bs (2 + len) 4)
      if bs.length < 2 + len + 4 + 8 * count then .error .invalidBytecode
      else .ok (some ⟨slice bs 2 len, readLines count (bs.drop (2 + len + 4))⟩)

/-- "address for line": an exact match (R324; 93_implementation_defined.md U17 where none matches). Where several
pairs record the same line the spec does not say which one answers; the model takes the first recorded
(DESIGN CHOICE, unsafe; log 21). -/
def DebugBlock.addressForLine (b : DebugBlock) (line : Nat) : Option Nat :=
  (b.lines.find? fun p => p.1 == line).map Prod.snd

/-- "line for address": the largest recorded line whose address is at most the query (R324, U17). -/
def DebugBlock.lineForAddress (b : DebugBlock) (addr : Nat) : Option Nat :=
  ((b.lines.filter fun p => decide (p.2 ≤ addr)).map Prod.fst).max?

/-- What a file that passes gives: the arguments of `Load`, and the metadata for tools (R325, R326). -/
structure SilcImage where
  code    : List Byte
  data    : List Byte
  entry   : Addr
  mode    : BitVec 16
  symbols : List Symbol
  debug   : Option DebugBlock
deriving DecidableEq, Repr

/-- Read a `.silc` file, refusing it as invalid-bytecode in every case of R325. The layout is R322: header, code,
data, symbol table, debug block to the end of the file. -/
def readSilc (f : List Byte) : Except HostError SilcImage :=
  let h := readHeader f
  let code := slice f 32 h.codeSize
  let data := slice f (32 + h.codeSize) h.dataSize
  if f.length < 32 then .error .invalidBytecode
  else if f.take 4 ≠ silcMagic then .error .invalidBytecode
  else if h.version ≠ 0x0100 then .error .invalidBytecode
  else if f.length < 32 + h.codeSize + h.dataSize + h.symbolSize then .error .invalidBytecode
  else if fnv1a (code ++ data) ≠ h.checksum then .error .invalidBytecode
  else
    match readSymbolTable (slice f (32 + h.codeSize + h.dataSize) h.symbolSize) with
    | .error e => .error e
    | .ok symbols =>
      match readDebugBlock (f.drop (32 + h.codeSize + h.dataSize + h.symbolSize)) with
      | .error e => .error e
      | .ok debug => .ok ⟨code, data, h.entry, h.mode, symbols, debug⟩

/-- Read a file and load it; a refused file loads nothing (R325, 60_exceptions.md R255). -/
def loadSilc (f : List Byte) (s : State) : Except HostError State :=
  match readSilc f with
  | .error e => .error e
  | .ok im => hostLoad im.code im.data im.entry im.mode s

end Sys2Proof.Machine
end

