-- ==== Sys2Proof/Safety.lean ====
section
/-! DEFINITION. What counts as a sound state and a safe step, in the terms the statements use: the state
invariant, the bound of `pc`, and the frames of instructions. -/

namespace Sys2Proof.Machine

/-- An address that some extent covers: loaded code, an existing heap state, or a port (20_memory.md R44). -/
abbrev State.Mapped (s : State) (a : Nat) : Prop :=
  a < s.codeLen ∨ (heapBase ≤ a ∧ a < heapBase + 16 * s.heapLen) ∨ (ioBase ≤ a ∧ a < ioBase + s.cfg.ioPorts)

/-- Memory is canonical and lists nothing outside the extents. -/
abbrev State.MemInv (s : State) : Prop := Memory.wf s.mem ∧ ∀ x ∈ s.mem, s.Mapped x.1

/-- The extents and depths lie inside their capacities, which are legal (00_scope.md R4, 10_state.md R25, R26,
R28, R29). -/
abbrev State.CapInv (s : State) : Prop :=
  s.cfg.Legal ∧ s.codeLen ≤ Config.codeMax ∧ s.heapLen ≤ s.cfg.heapCap ∧
  s.vs.length ≤ s.cfg.vstackCap ∧ s.cs.length ≤ s.cfg.cstackCap

/-- `FAULT` records a fault exactly in the state `FAULTED` (10_state.md R24, 60_exceptions.md R251, R267). -/
abbrev State.FaultInv (s : State) : Prop :=
  (s.run = .faulted ↔ s.fault.code ≠ 0) ∧ s.fault.code.toNat ≤ 11 ∧ (s.fault.code = 0 → s.fault.info = 0)

/-- The stream's position lies inside it, and a detached stream is empty (10_state.md R33, 70 R311). -/
abbrev State.StreamInv (s : State) : Prop :=
  s.instream.pos ≤ s.instream.bytes.length ∧
  (s.instream.attached = false → s.instream.bytes = [] ∧ s.instream.pos = 0)

/-- The invariant of every state that `Reset`, `Load`, host operations and steps make. -/
abbrev State.Inv (s : State) : Prop := s.MemInv ∧ s.CapInv ∧ s.FaultInv ∧ s.StreamInv

/-- Every address that control can reach lies at or below `CODE_MAX`, so `pc` cannot wrap (10_state.md R15).
No part of `Inv`: `Load` does not check its entry point (70 R292). -/
abbrev State.PcBounded (s : State) : Prop :=
  s.codeLen ≤ Config.codeMax ∧ s.pc.toNat ≤ Config.codeMax ∧ ∀ f ∈ s.cs, f.ret.toNat ≤ Config.codeMax

/-- Everything outside the general registers, `pc` and `SR` is as before; memory through its one-byte read. -/
structure SameOutside (s t : State) : Prop where
  fp       : t.fp = s.fp
  mode     : t.mode = s.mode
  run      : t.run = s.run
  fault    : t.fault = s.fault
  vs       : t.vs = s.vs
  cs       : t.cs = s.cs
  mem      : ∀ a, t.mem.read a = s.mem.read a
  codeLen  : t.codeLen = s.codeLen
  heapLen  : t.heapLen = s.heapLen
  sensor   : t.sensor = s.sensor
  actuator : t.actuator = s.actuator
  outlog   : t.outlog = s.outlog
  instream : t.instream = s.instream
  cfg      : t.cfg = s.cfg

/-- An instruction that changes at most the register `d`, `SR` and `pc`. -/
structure WritesOneReg (s t : State) (d : Reg) : Prop where
  outside : SameOutside s t
  others  : ∀ r, r ≠ d → t.reg r = s.reg r

/-- The step raised the fault `k` with `info` and had no other effect: `pc`, every register, flag, stack, device
and memory byte is as before (60_exceptions.md R252). -/
def RaisedOnly (s : State) (o : Host.Outcome State Fault Refusal) (k : FaultKind) (info : BitVec 32) : Prop :=
  ∃ t, o = .next t ∧ t.run = .faulted ∧ t.fault = ⟨k.code, info⟩ ∧
    t = { s with run := t.run, fault := t.fault }

/-- What an instruction with one arithmetic result does to a state (42_arithmetic.md R140, R143): the fields of
the new `Rd`, the flags `Z` and `N` from its exponent, `O`, the other flags kept, `pc` past the instruction,
every other register and everything else as before. -/
def ArithEffect (s t : State) (d : Reg) (r th : Int) (o : Bool) (width : Nat) : Prop :=
  rho (t.reg d) = r ∧ theta (t.reg d) = th ∧
  t.sr = ⟨decide (r = -8), decide (r < 0), o, s.sr.c, s.sr.e⟩ ∧
  t.pc = s.pc + BitVec.ofNat 32 width ∧ WritesOneReg s t d

/-- What an instruction that moves one byte into `Rd` does: no flag, `pc` past the instruction, every other
register and everything else as before (41_data.md R120). -/
def MoveEffect (s t : State) (d : Reg) (v : Byte) (width : Nat) : Prop :=
  t.reg d = v ∧ t.sr = s.sr ∧ t.pc = s.pc + BitVec.ofNat 32 width ∧ WritesOneReg s t d

/-- A host operation gives the state `t` where it is allowed, and elsewhere is refused with no new state
(60_exceptions.md R256; the error's name is left open, log 14). -/
def SetsOrRefuses (o : Except HostError State) (allowed : Prop) (t : State) : Prop :=
  (allowed → o = .ok t) ∧ (¬allowed → ∃ e, o = .error e)

/-- The opcode bytes of 30_encoding.md R84, as ranges. -/
def unassignedRanges : List (Nat × Nat) :=
  [(0x04, 0x0F), (0x17, 0x1F), (0x28, 0x3F), (0x4C, 0x5F), (0x67, 0x7F), (0x88, 0x9F), (0xA2, 0xAF),
   (0xB0, 0xBF), (0xC2, 0xC3), (0xC8, 0xDF), (0xE5, 0xE7), (0xEC, 0xEF), (0xF0, 0xFF)]

/-- The opcode byte is unassigned (30_encoding.md R84). -/
abbrev Unassigned (op : Byte) : Prop := ∃ r ∈ unassignedRanges, r.1 ≤ op.toNat ∧ op.toNat ≤ r.2

/-- The eight opcodes of class "u", with their formats (30_encoding.md R83, R85). -/
def unsupportedRows : List (Byte × Format × Instr) :=
  [(0x80, .b, .trans), (0x81, .da, .pipe), (0x82, .c, .lerp), (0x83, .c, .slerp), (0x84, .b, .grad),
   (0x85, .c, .descent), (0xA0, .b, .promote), (0xA1, .c, .demote)]

/-- The six stubs, with their formats (R83; 45_transform_compat.md R207, R208; 46_system_io.md R223 to R226). -/
def stubRows : List (Byte × Format × Instr) :=
  [(0x86, .a, .emerge), (0x87, .a, .collapse), (0xC4, .a, .sync), (0xC5, .b, .broadcast),
   (0xC6, .b, .receive), (0xC7, .c, .entangle)]

/-- The nine hints, with their formats (R83; 47_hint.md R237 to R245). -/
def hintRows : List (Byte × Format × Instr) :=
  [(0xE0, .a, .hintCpu), (0xE1, .a, .hintGpu), (0xE2, .a, .hintNpu), (0xE3, .a, .hintFpga),
   (0xE4, .a, .hintDsp), (0xE8, .a, .batchBegin), (0xE9, .a, .batchEnd), (0xEA, .da, .prefetch),
   (0xEB, .a, .fence)]

/-- An opcode row acts as `next`: it is fetched whole, its operand bytes are not examined, a truncated one is
missing its first absent byte, and executing it moves `pc` and changes nothing else (30_encoding.md R86). -/
def ActsAsNext (row : Byte × Format × Instr) : Prop :=
  formatOf row.1 = some row.2.1 ∧
  (∀ ops : List Byte, row.2.1.width ≤ ops.length + 1 → decode (row.1 :: ops) = .ok row.2.2) ∧
  (∀ ops : List Byte, ops.length + 1 < row.2.1.width → decode (row.1 :: ops) = .error (.missing (ops.length + 1))) ∧
  ∀ s : State, ∃ t, exec row.2.2 s = .next t ∧ t = { s with pc := s.pc + BitVec.ofNat 32 row.2.1.width }

end Sys2Proof.Machine
end

