-- ==== Sys2Proof/Certificates/Slice0/Obligations.lean ====
section
/-! DEFINITION. The statements for the provers. A docstring names the rules of spec/ a statement formalises; the
word "decision" marks a rule that is the spec's own choice and "derived" one that the spec itself infers. -/

open Sys2Proof Sys2Proof.Machine

/-! ### Encoding -/

/-- 30_encoding.md R72, R77 to R83, R88: whatever follows it in memory, the encoding of a well-formed instruction
decodes to that instruction. -/
def Obligations.DecodeEncodeRoundTrip : Prop :=
  ∀ (i : Instr) (rest : List Byte), i.wellFormed = true → decode (encode i ++ rest) = .ok i

/-- 30_encoding.md R72, R85 to R87: what decodes is well-formed, its first byte is the instruction's opcode, and for an
instruction of class "x" the bytes are its encoding, so no bit of them is ignored. -/
def Obligations.DecodedBytesAreTheEncoding : Prop :=
  ∀ (bs : List Byte) (i : Instr), decode bs = .ok i →
    i.wellFormed = true ∧ bs.head? = some i.opcode ∧
    (classOf i.opcode = some .executes → bs.take (encode i).length = encode i)

/-- 30_encoding.md R84 (decision D23): exactly the 193 listed opcode bytes are illegal, told by the first byte alone,
and stepping onto one raises `IllegalOpcode(op)` with no other effect. -/
def Obligations.UnassignedOpcodesAreIllegal : Prop :=
  ((List.range 256).filter fun n => decide (Unassigned (BitVec.ofNat 8 n))).length = 193 ∧
  (∀ (op : Byte) (rest : List Byte), Unassigned op ↔ decode (op :: rest) = .error (.illegalOpcode op)) ∧
  ∀ (s : State) (op : Byte), s.run = .running → s.fetchByte s.pc = some op → Unassigned op →
    RaisedOnly s (step s) .illegalOpcode (op.setWidth 32)

/-- 30_encoding.md R85; 45_transform_compat.md R201 to R206, R211, R212 (decision D22): each unsupported opcode has its
format, decodes by its first byte alone, and raises `UnsupportedOpcode(op)` with no other effect, whether or not
its operand bytes exist. -/
def Obligations.UnsupportedOpcodesRaise : Prop :=
  ∀ row ∈ unsupportedRows,
    formatOf row.1 = some row.2.1 ∧
    (∀ rest : List Byte, decode (row.1 :: rest) = .ok row.2.2) ∧
    (∀ s : State, RaisedOnly s (exec row.2.2 s) .unsupportedOpcode (row.1.setWidth 32)) ∧
    ∀ s : State, s.run = .running → s.fetchByte s.pc = some row.1 →
      RaisedOnly s (step s) .unsupportedOpcode (row.1.setWidth 32)

/-- 45_transform_compat.md R207, R208; 46_system_io.md R223 to R226; 47_hint.md R237 to R245; 30_encoding.md R86: each
stub and each hint executes as `next` and its operand bytes are fetched but not examined. -/
def Obligations.StubsAndHintsActAsNext : Prop := ∀ row ∈ stubRows ++ hintRows, ActsAsNext row

/-- 70_reset_and_hazards.md R301, 30_encoding.md R72: while `RUN = RUNNING`, a step is `exec` of the instruction whose encoding
stands at `pc`, and of the instruction that the fetched bytes decode to. Nothing is added around `exec`: `pc` is
moved by the instruction itself. A failed decode raises its fault; in any other run state nothing happens. -/
def Obligations.StepRunsDecodedInstruction : Prop :=
  (∀ (s : State) (i : Instr), s.run = .running → i.wellFormed = true →
    (∀ (k : Nat) (h : k < (encode i).length),
      s.fetchByte (s.pc + BitVec.ofNat 32 k) = some ((encode i)[k])) →
    step s = exec i s) ∧
  (∀ (s : State) (i : Instr), s.run = .running → decode (s.fetchWindow s.pc 4) = .ok i → step s = exec i s) ∧
  (∀ (s : State) (e : DecodeError), s.run = .running → decode (s.fetchWindow s.pc 4) = .error e →
    match e with
    | .missing k => RaisedOnly s (step s) .addressOutOfBounds (s.pc + BitVec.ofNat 32 k)
    | .illegalOpcode op => RaisedOnly s (step s) .illegalOpcode (op.setWidth 32)
    | .illegalOperand k b => RaisedOnly s (step s) .illegalOperand (BitVec.ofNat 32 (k * 256 + b.toNat))) ∧
  ∀ s : State, s.run ≠ .running → step s = .next s

/-- 30_encoding.md R83, sanity: words written out from the spec's examples decode to the instructions they stand for. -/
def Obligations.SpecWordsDecode : Prop :=
  decode [0x16, 0x03, 0x09, 0x00] = .ok (.loop 3 0x0009) ∧
  decode [0x23, 0x15, 0x21, 0x00] = .ok (.store 1 5 0x0021) ∧
  decode [0x40, 0x00, 0x01] = .ok (.mul 0 1) ∧
  decode [0x65, 0x02, 0x74] = .ok (.spread 2 4 7) ∧
  decode [0x80] = .ok .trans ∧
  decode [0xC1, 0x05, 0x00] = .ok (.act 5 0) ∧
  decode [0xEA, 0xFF, 0xFF, 0xFF] = .ok .prefetch

/-- 20_memory.md R47 (decision D42), 60_exceptions.md R254: a byte can be fetched exactly inside the loaded code, and a step whose
instruction lacks a byte raises `AddressOutOfBounds` with the address of the first missing one. -/
def Obligations.FetchStopsAtFirstMissingByte : Prop :=
  (∀ (s : State) (a : Addr), s.fetchByte a =
    if a.toNat / 2 ^ 28 = 0 ∧ a.toNat % 2 ^ 28 < s.codeLen then some (s.mem.read a.toNat) else none) ∧
  (∀ s : State, s.run = .running → s.fetchByte s.pc = none →
    RaisedOnly s (step s) .addressOutOfBounds s.pc) ∧
  ∀ (s : State) (op : Byte) (f : Format) (k : Nat), s.run = .running → s.fetchByte s.pc = some op →
    formatOf op = some f → classOf op ≠ some .unsupported → 1 ≤ k → k < f.width →
    (∀ j, 1 ≤ j → j < k → s.fetchByte (s.pc + BitVec.ofNat 32 j) ≠ none) →
    s.fetchByte (s.pc + BitVec.ofNat 32 k) = none →
    RaisedOnly s (step s) .addressOutOfBounds (s.pc + BitVec.ofNat 32 k)

/-- 30_encoding.md R72, R80, R81, R87 (derived), 60_exceptions.md R254: a register byte above 15 is refused, `B1` before `B2`; so are a
rotation count above 15, a fold mode above 2, a root index 0 and a selector in `LOOP`; and a step onto a refused
operand raises `IllegalOperand((k << 8) + Bk)`. -/
def Obligations.IllegalOperandsAreRefusedInOrder : Prop :=
  (∀ op ∈ ([0x20, 0x40, 0x41, 0x46, 0x47] : List Byte), ∀ (b1 b2 : Byte) (rest : List Byte),
    (16 ≤ b1.toNat → decode (op :: b1 :: b2 :: rest) = .error (.illegalOperand 1 b1)) ∧
    (b1.toNat < 16 → 16 ≤ b2.toNat → decode (op :: b1 :: b2 :: rest) = .error (.illegalOperand 2 b2))) ∧
  (∀ op ∈ ([0x21, 0x42, 0x43, 0x4A, 0x4B, 0x65, 0x66, 0xC0] : List Byte), ∀ (b1 b2 : Byte) (rest : List Byte),
    16 ≤ b1.toNat → decode (op :: b1 :: b2 :: rest) = .error (.illegalOperand 1 b1)) ∧
  (∀ op ∈ ([0x24, 0x25, 0x44, 0x45, 0x48, 0x49, 0x60, 0x61, 0x62, 0x63] : List Byte), ∀ (b1 : Byte) (rest : List Byte),
    16 ≤ b1.toNat → decode (op :: b1 :: rest) = .error (.illegalOperand 1 b1)) ∧
  (∀ (b1 : Byte) (rest : List Byte), 3 ≤ b1.toNat → decode (0x64 :: b1 :: rest) = .error (.illegalOperand 1 b1)) ∧
  (∀ (b1 : Byte) (rest : List Byte), b1.toNat < 16 →
    decode (0x43 :: b1 :: 0x00 :: rest) = .error (.illegalOperand 2 0x00)) ∧
  (∀ (b1 b2 b3 : Byte) (rest : List Byte), 16 ≤ b1.toNat →
    decode (0x16 :: b1 :: b2 :: b3 :: rest) = .error (.illegalOperand 1 b1)) ∧
  (∀ (b1 b2 : Byte) (rest : List Byte), 16 ≤ b2.toNat →
    decode (0xC1 :: b1 :: b2 :: rest) = .error (.illegalOperand 2 b2)) ∧
  ∀ (s : State) (k : Nat) (b : Byte), s.run = .running → s.fetchInstr = .error (.illegalOperand k b) →
    RaisedOnly s (step s) .illegalOperand (BitVec.ofNat 32 (k * 256 + b.toNat))

/-- 30_encoding.md R77, R78, R79, R82 (decisions D7, D8, D21): immediates are little-endian; a short address is
`(seg << 28) | off16`; state index `k` stands for `0x1000_0000 + 16 * k`, which is a multiple of 16 and spans exactly the
StateHeap segment; a code target is zero-extended and lies in the Code segment's range; a layer range names
`((hi - lo) mod 16) + 1` layers, the `j`-th being `(lo + j) mod 16`. -/
def Obligations.OperandFormsAreAsEncoded : Prop :=
  (∀ b1 b2 b3 : Byte, (imm24 b1 b2 b3).toNat = b1.toNat + b2.toNat * 2 ^ 8 + b3.toNat * 2 ^ 16) ∧
  (∀ b2 b3 : Byte, (imm16 b2 b3).toNat = b2.toNat + b3.toNat * 2 ^ 8) ∧
  (∀ (seg : BitVec 4) (off : BitVec 16), (shortAddress seg off).toNat = seg.toNat * 2 ^ 28 + off.toNat) ∧
  (∀ k : BitVec 24, (stateAddress k).toNat = 0x10000000 + 16 * k.toNat ∧ (stateAddress k).toNat % 16 = 0) ∧
  (∀ a : Addr, segmentOf a = some .stateHeap ↔ ∃ (k : BitVec 24) (j : Reg), a.toNat = (stateAddress k).toNat + j.val) ∧
  (∀ t : BitVec 24, (codeTarget24 t).toNat = t.toNat ∧ segmentOf (codeTarget24 t) = some .code) ∧
  ∀ lo hi : Reg,
    ((layerRange lo hi).length : Int) = ((hi.val : Int) - lo.val) % 16 + 1 ∧
    ∀ (j : Nat) (h : j < (layerRange lo hi).length), ((layerRange lo hi)[j]).val = (lo.val + j) % 16

/-! ### The ByteSil and its arithmetic -/

/-- 10_state.md R12 (decisions D1, D2): every byte is a legal ByteSil and its packing is reversible; `pack` of legal fields gives
them back. -/
def Obligations.PackingIsReversible : Prop :=
  (∀ b : Byte, (-8 ≤ rho b ∧ rho b ≤ 7) ∧ (0 ≤ theta b ∧ theta b ≤ 15) ∧ pack (rho b) (theta b) = b ∧
    rho b = ((b.extractLsb' 4 4).toNat : Int) - 8 ∧ theta b = ((b.extractLsb' 0 4).toNat : Int)) ∧
  ∀ r t : Int, -8 ≤ r → r ≤ 7 → rho (pack r t) = r ∧ theta (pack r t) = t % 16

/-- 10_state.md R17 (decision D10): `Z` and `N` of a result; `Z` does not look at the phase and implies `N`. -/
def Obligations.ZeroAndNegativeFlags : Prop :=
  ∀ (f : SR) (b : Byte) (o : Bool),
    ((f.setZNO b o).z = true ↔ rho b = -8) ∧ ((f.setZNO b o).n = true ↔ rho b < 0) ∧
    ((f.setZNO b o).z = true → (f.setZNO b o).n = true) ∧
    ∀ t : Int, (f.setZNO (pack (rho b) t) o).z = (f.setZNO b o).z

/-- 42_arithmetic.md R150 (decisions D4, D9): `MUL Rd, Rs`. -/
def Obligations.MulAddsExponentsAndPhases : Prop :=
  ∀ (d r : Reg) (s : State), decode [0x40, regByte d, regByte r] = .ok (.mul d r) ∧
    ∃ t, exec (.mul d r) s = .next t ∧
      ArithEffect s t d (sat (rho (s.reg d) + rho (s.reg r)))
        ((theta (s.reg d) + theta (s.reg r)) % 16) (ovf (rho (s.reg d) + rho (s.reg r))) 3

/-- 42_arithmetic.md R151 (decisions D4, D9): `DIV Rd, Rs`; division by NULL is no fault. -/
def Obligations.DivSubtractsExponentsAndPhases : Prop :=
  ∀ (d r : Reg) (s : State), decode [0x41, regByte d, regByte r] = .ok (.div d r) ∧
    ∃ t, exec (.div d r) s = .next t ∧
      ArithEffect s t d (sat (rho (s.reg d) - rho (s.reg r)))
        ((theta (s.reg d) - theta (s.reg r)) % 16) (ovf (rho (s.reg d) - rho (s.reg r))) 3

/-- 42_arithmetic.md R152 (decision D14): `POW Rd, n`, exact before it is clamped. -/
def Obligations.PowScalesExponentAndPhase : Prop :=
  ∀ (d : Reg) (n : Byte) (s : State), decode [0x42, regByte d, n] = .ok (.pow d n) ∧
    ∃ t, exec (.pow d n) s = .next t ∧
      ArithEffect s t d (sat (rho (s.reg d) * n.toNat)) ((theta (s.reg d) * n.toNat) % 16)
        (ovf (rho (s.reg d) * n.toNat)) 3

/-- 42_arithmetic.md R153 (decision D14): `ROOT Rd, n`: the exponent's quotient is rounded toward zero, the phase's is the
floor, `O` is 0; index 0 is `IllegalOperand(0x0200)` at decode; that the meaning of the ill-formed term raises the same fault
is the model's own convention (log 10), so the statement as a whole is derived. -/
def Obligations.RootDividesExponentAndPhase : Prop :=
  (∀ (d : Reg) (n : Byte) (s : State), n ≠ 0 → decode [0x43, regByte d, n] = .ok (.root d n) ∧
    ∃ t, exec (.root d n) s = .next t ∧
      ArithEffect s t d
        (if 0 ≤ rho (s.reg d) then rho (s.reg d) / n.toNat else -((-rho (s.reg d)) / n.toNat))
        (theta (s.reg d) / n.toNat) false 3) ∧
  ∀ (d : Reg) (s : State), decode [0x43, regByte d, 0x00] = .error (.illegalOperand 2 0x00) ∧
    RaisedOnly s (exec (.root d 0x00) s) .illegalOperand 0x0200

/-- 42_arithmetic.md R154 (decision D15): `INV Rd`. -/
def Obligations.InvNegatesExponentAndPhase : Prop :=
  ∀ (d : Reg) (s : State), decode [0x44, regByte d] = .ok (.inv d) ∧
    ∃ t, exec (.inv d) s = .next t ∧
      ArithEffect s t d (sat (-rho (s.reg d))) ((-theta (s.reg d)) % 16) (ovf (-rho (s.reg d))) 2

/-- 42_arithmetic.md R155, R156, R157 (decisions D4, D15): `CONJ Rd`, `MAG Rd`, `PHASE Rd`. -/
def Obligations.ConjMagPhaseExtract : Prop :=
  ∀ (d : Reg) (s : State),
    (decode [0x45, regByte d] = .ok (.conj d) ∧ ∃ t, exec (.conj d) s = .next t ∧
      ArithEffect s t d (rho (s.reg d)) ((-theta (s.reg d)) % 16) false 2) ∧
    (decode [0x48, regByte d] = .ok (.mag d) ∧ ∃ t, exec (.mag d) s = .next t ∧
      ArithEffect s t d (rho (s.reg d)) 0 false 2) ∧
    (decode [0x49, regByte d] = .ok (.phase d) ∧ ∃ t, exec (.phase d) s = .next t ∧
      ArithEffect s t d 0 (theta (s.reg d)) false 2)

/-- 42_arithmetic.md R158, R159 (decision D17): `SCALE Rd, s8` and `ROTATE Rd, s8` with the signed value of the operand byte;
reading it unsigned gives `ROTATE` the same result. -/
def Obligations.ScaleAndRotateBySignedByte : Prop :=
  ∀ (d : Reg) (v : Byte) (s : State),
    (decode [0x4A, regByte d, v] = .ok (.scale d v) ∧ ∃ t, exec (.scale d v) s = .next t ∧
      ArithEffect s t d (sat (rho (s.reg d) + v.toInt)) (theta (s.reg d)) (ovf (rho (s.reg d) + v.toInt)) 3) ∧
    (decode [0x4B, regByte d, v] = .ok (.rotate d v) ∧ ∃ t, exec (.rotate d v) s = .next t ∧
      ArithEffect s t d (rho (s.reg d)) ((theta (s.reg d) + v.toInt) % 16) false 3 ∧
      ArithEffect s t d (rho (s.reg d)) ((theta (s.reg d) + v.toNat) % 16) false 3)

/-- 42_arithmetic.md R165 and the lookup of 43_cadd_table.md R181 ("derived" by the spec from its R162, decision D16): `ADD Rd, Rs` is the
table entry turned by the first operand's phase, and an exactly zero sum is the byte `0x00` without overflow. -/
def Obligations.AddLooksUpTheTable : Prop :=
  ∀ (d r : Reg) (s : State), decode [0x46, regByte d, regByte r] = .ok (.add d r) ∧
    ∃ t, exec (.add d r) s = .next t ∧
      let ra := rho (s.reg d)
      let rb := rho (s.reg r)
      let n := (theta (s.reg r) - theta (s.reg d)) % 16
      let e := caddEntry (ra + 8).toNat (rb + 8).toNat n.toNat
      if ra = rb ∧ n = 8 then ArithEffect s t d (-8) 0 false 3
      else ArithEffect s t d (rho e) ((theta e + theta (s.reg d)) % 16) (caddStar ra rb n.toNat) 3

/-- 42_arithmetic.md R166 (decision D16; the negation is "derived" by the spec from its R160): `SUB Rd, Rs` adds `Rs` turned by eight
steps, so `SUB Rd, Rd` is `0x00`. -/
def Obligations.SubAddsTheNegative : Prop :=
  ∀ (d r : Reg) (s : State), decode [0x47, regByte d, regByte r] = .ok (.sub d r) ∧
    ∃ t, exec (.sub d r) s = .next t ∧
      let ra := rho (s.reg d)
      let rb := rho (s.reg r)
      let n := (theta (s.reg r) + 8 - theta (s.reg d)) % 16
      let e := caddEntry (ra + 8).toNat (rb + 8).toNat n.toNat
      if ra = rb ∧ theta (s.reg r) = theta (s.reg d) then ArithEffect s t d (-8) 0 false 3
      else ArithEffect s t d (rho e) ((theta e + theta (s.reg d)) % 16) (caddStar ra rb n.toNat) 3

/-- 42_arithmetic.md R151: "`multiply` then `divide` by the same operand returns the original ByteSil", exactly when the `MUL` did not
set `O`. -/
def Obligations.DivUndoesMulExactlyWithoutOverflow : Prop :=
  ∀ (d r : Reg) (s t u : State), d ≠ r → exec (.mul d r) s = .next t → exec (.div d r) t = .next u →
    (u.reg d = s.reg d ↔ t.sr.o = false) ∧ (t.sr.o = false → u.sr.o = false)

/-- 42_arithmetic.md R150 to R157, their corner cases: ONE is neutral, multiplication commutes, `INV` is its own inverse but for
NULL's exponent and division is multiplication by it, `CONJ` twice is the identity, powers 0, 1, 2 and root 1 are as
expected, and a byte is the product of its magnitude and its phase. -/
def Obligations.ArithmeticUnitIdentities : Prop :=
  ∀ a b : Byte,
    mulOp a one = (a, false) ∧ mulOp a b = mulOp b a ∧ divOp a a = (one, false) ∧
    (rho b ≠ -8 → invOp (invOp b).1 = (b, false) ∧ divOp a b = mulOp a (invOp b).1) ∧
    conjOp (conjOp a).1 = (a, false) ∧
    powOp a 0 = (one, false) ∧ powOp a 1 = (a, false) ∧ powOp a 2 = mulOp a a ∧ rootOp a 1 = (a, false) ∧
    mulOp (magOp a).1 (phaseOp a).1 = (a, false)

/-- 42_arithmetic.md R162 and 43_cadd_table.md R183 (a), both "derived" by the spec: cartesian addition commutes on all bytes, value and
overflow. -/
def Obligations.CartesianAddCommutes : Prop := ∀ a b : Byte, cadd a b = cadd b a

/-- 42_arithmetic.md R162, "derived" by the spec: turning both operands turns a nonzero sum and keeps its overflow bit; a zero sum is
`0x00` for every turn. -/
def Obligations.CartesianAddRotates : Prop :=
  ∀ (a b : Byte) (k : Int),
    cadd (pack (rho a) (theta a + k)) (pack (rho b) (theta b + k)) =
      if rho a = rho b ∧ (theta b - theta a) % 16 = 8 then (0x00, false)
      else (pack (rho (cadd a b).1) (theta (cadd a b).1 + k), (cadd a b).2)

/-- 43_cadd_table.md R182 and R183 (b), (c), (d), "derived" by the spec by evaluation: the nine overflow entries, the zero sums, the
mirror symmetry away from ties, a much larger first operand wins, and doubling. -/
def Obligations.CartesianTableSelfChecks : Prop :=
  ∀ ra rb d : Reg,
    (caddStar ((ra.val : Int) - 8) ((rb.val : Int) - 8) d.val = true ↔
      (ra, rb, d) ∈ ([(0, 0, 7), (0, 0, 9), (15, 15, 0), (15, 15, 1), (15, 15, 2), (15, 15, 3), (15, 15, 13),
        (15, 15, 14), (15, 15, 15)] : List (Reg × Reg × Reg))) ∧
    (ra = rb → d = 8 → caddEntry ra.val rb.val d.val = 0x00) ∧
    (¬(ra = rb ∧ d.val % 2 = 1) →
      rho (caddEntry ra.val rb.val (-d).val) = rho (caddEntry ra.val rb.val d.val) ∧
      theta (caddEntry ra.val rb.val (-d).val) = (-theta (caddEntry ra.val rb.val d.val)) % 16) ∧
    (rb.val + 2 ≤ ra.val → caddEntry ra.val rb.val d.val = pack ((ra.val : Int) - 8) 0) ∧
    (ra = rb → ra.val < 15 → d = 0 → caddEntry ra.val rb.val d.val = pack ((ra.val : Int) - 7) 0)

/-! ### Control -/

/-- 40_control.md R101, R102, R103 (decisions D4, D13): `NOP` only advances; `HLT` sets `RUN = HALTED`, keeps `pc`, and then neither
a step nor `Resume` does anything; `YIELD` advances and sets `RUN = YIELDED`, a step does nothing, and `Resume` only
sets `RUN = RUNNING`. -/
def Obligations.NopHltYieldSetPcAndRun : Prop :=
  decode [0x00] = .ok .nop ∧ decode [0x01] = .ok .hlt ∧ decode [0x03] = .ok .yield ∧
  ∀ s : State,
    (∃ t, exec .nop s = .next t ∧ t = { s with pc := s.pc + 1 }) ∧
    (∃ t, exec .hlt s = .next t ∧ t = { s with run := .halted } ∧ step t = .next t ∧ hostResume t = t) ∧
    ∃ t, exec .yield s = .next t ∧ t = { s with pc := s.pc + 1, run := .yielded } ∧ step t = .next t ∧
      hostResume t = { s with pc := s.pc + 1, run := .running }

/-- 40_control.md R104 to R108 (decisions D4, D8, D10): the jumps go to the zero-extended target, the conditional ones only if their
flag is 1 and else past themselves; nothing else changes. -/
def Obligations.JumpsFollowTheirFlag : Prop :=
  ∀ (b1 b2 b3 : Byte) (s : State),
    let target := imm24 b1 b2 b3
    decode [0x10, b1, b2, b3] = .ok (.jmp target) ∧ decode [0x11, b1, b2, b3] = .ok (.jz target) ∧
    decode [0x12, b1, b2, b3] = .ok (.jn target) ∧ decode [0x13, b1, b2, b3] = .ok (.jc target) ∧
    decode [0x14, b1, b2, b3] = .ok (.jo target) ∧
    (∃ t, exec (.jmp target) s = .next t ∧ t = { s with pc := t.pc } ∧ t.pc.toNat = target.toNat) ∧
    ∀ row ∈ [(Instr.jz target, s.sr.z), (Instr.jn target, s.sr.n), (Instr.jc target, s.sr.c),
        (Instr.jo target, s.sr.o)],
      ∃ t, exec row.1 s = .next t ∧ t = { s with pc := t.pc } ∧
        (row.2 = true → t.pc.toNat = target.toNat) ∧ (row.2 = false → t.pc = s.pc + 4)

/-- 40_control.md R109 (decision D12): `CALL t24` pushes `(pc + 4, FP)`, sets `FP` to the depth of the value stack and jumps; on a
full call stack it raises `StackOverflow(1)` and nothing else changes. -/
def Obligations.CallPushesAFrame : Prop :=
  ∀ (b1 b2 b3 : Byte) (s : State),
    let target := imm24 b1 b2 b3
    decode [0x15, b1, b2, b3] = .ok (.call target) ∧
    (s.cs.length ≠ s.cfg.cstackCap → ∃ t, exec (.call target) s = .next t ∧ t.pc.toNat = target.toNat ∧
      t = { s with cs := s.cs ++ [⟨s.pc + 4, s.fp⟩], fp := BitVec.ofNat 32 s.vs.length, pc := t.pc }) ∧
    (s.cs.length = s.cfg.cstackCap → RaisedOnly s (exec (.call target) s) .stackOverflow 1)

/-- 40_control.md R110 (decision D12): `RET` pops the top frame and restores `FP` and `pc` from it; on an empty call stack it raises
`StackUnderflow(1)`. -/
def Obligations.RetPopsAFrame : Prop :=
  decode [0x02] = .ok .ret ∧
  (∀ (s : State) (below : List Frame) (f : Frame), s.cs = below ++ [f] →
    ∃ t, exec .ret s = .next t ∧ t = { s with cs := below, fp := f.fp, pc := f.ret }) ∧
  ∀ s : State, s.cs = [] → RaisedOnly s (exec .ret s) .stackUnderflow 1

/-- 40_control.md R111 (decision D11): `LOOP Rc, t16` decrements the packed byte as an unsigned count modulo 256 and branches if
it is not 0; a nonzero selector is an `IllegalOperand`; no flag changes. -/
def Obligations.LoopDecrementsAndBranches : Prop :=
  ∀ (c : Reg) (b1 b2 b3 : Byte) (s : State),
    decode [0x16, regByte c, b2, b3] = .ok (.loop c (imm16 b2 b3)) ∧
    (b1.toNat / 16 ≠ 0 → decode [0x16, b1, b2, b3] = .error (.illegalOperand 1 b1)) ∧
    ∃ t, exec (.loop c (imm16 b2 b3)) s = .next t ∧
      ((t.reg c).toNat : Int) = ((s.reg c).toNat - 1 : Int) % 256 ∧
      (t.reg c ≠ 0 → t.pc.toNat = (imm16 b2 b3).toNat) ∧ (t.reg c = 0 → t.pc = s.pc + 4) ∧
      t.sr = s.sr ∧ WritesOneReg s t c

/-! ### Data -/

/-- 41_data.md R121, R122 (decisions D4, D9, D41): `MOV Rd, Rs` and `MOVI Rd, b8`. -/
def Obligations.MovesCopyOneByte : Prop :=
  ∀ (d r : Reg) (v : Byte) (s : State),
    (decode [0x20, regByte d, regByte r] = .ok (.mov d r) ∧
      ∃ t, exec (.mov d r) s = .next t ∧ MoveEffect s t d (s.reg r) 3) ∧
    (decode [0x21, regByte d, v] = .ok (.movi d v) ∧ ∃ t, exec (.movi d v) s = .next t ∧ MoveEffect s t d v 3)

/-- 41_data.md R123 (decision D8): `LOAD Rd, [seg:off16]` reads one byte of Code, StateHeap or the ports inside the extent; a
CallStack address is `InvalidSegment`; every other address is `AddressOutOfBounds`. -/
def Obligations.LoadReadsOneByte : Prop :=
  ∀ (seg : BitVec 4) (d : Reg) (off : BitVec 16) (s : State),
    decode [0x22, segReg seg d, off.extractLsb' 0 8, off.extractLsb' 8 8] = .ok (.load seg d off) ∧
    if (seg = 0 ∧ off.toNat < s.codeLen) ∨ (seg = 1 ∧ off.toNat < 16 * s.heapLen) ∨
        (seg = 15 ∧ off.toNat < s.cfg.ioPorts) then
      ∃ t, exec (.load seg d off) s = .next t ∧
        MoveEffect s t d (s.mem.read (seg.toNat * 2 ^ 28 + off.toNat)) 4
    else if seg = 2 then RaisedOnly s (exec (.load seg d off) s) .invalidSegment (shortAddress seg off)
    else RaisedOnly s (exec (.load seg d off) s) .addressOutOfBounds (shortAddress seg off)

/-- 41_data.md R124, 20_memory.md R54 (decisions D8, D28): in a state of sound memory, `STORE [seg:off16], Rs` writes one byte of the
StateHeap, growing it by vacuum states if needed, or of the ports, and every other address reads as before; a Code or CallStack
address is `InvalidSegment`, a heap state at or beyond `HEAP_CAP` is `HeapOverflow`, every other address is
`AddressOutOfBounds`. -/
def Obligations.StoreWritesOneByte : Prop :=
  ∀ (seg : BitVec 4) (r : Reg) (off : BitVec 16) (s : State), s.MemInv → s.CapInv →
    decode [0x23, segReg seg r, off.extractLsb' 0 8, off.extractLsb' 8 8] = .ok (.store seg r off) ∧
    if (seg = 1 ∧ off.toNat / 16 < s.cfg.heapCap) ∨ (seg = 15 ∧ off.toNat < s.cfg.ioPorts) then
      ∃ t, exec (.store seg r off) s = .next t ∧
        (∀ a : Nat, t.mem.read a = if a = (shortAddress seg off).toNat then s.reg r else s.mem.read a) ∧
        (∀ a : Nat, seg = 1 → 0x10000000 + 16 * s.heapLen ≤ a → a < 0x10000000 + 16 * t.heapLen →
          a ≠ (shortAddress seg off).toNat → t.mem.read a = 0x00) ∧
        t.heapLen = (if seg = 1 then max s.heapLen (off.toNat / 16 + 1) else s.heapLen) ∧
        t = { s with mem := t.mem, heapLen := t.heapLen, pc := s.pc + 4 }
    else if seg = 0 ∨ seg = 2 then
      RaisedOnly s (exec (.store seg r off) s) .invalidSegment (shortAddress seg off)
    else if seg = 1 then RaisedOnly s (exec (.store seg r off) s) .heapOverflow (shortAddress seg off)
    else RaisedOnly s (exec (.store seg r off) s) .addressOutOfBounds (shortAddress seg off)

/-- 41_data.md R125, R126 (decision D4): `PUSH Rs` appends to the value stack, `POP Rd` takes the last pushed byte;
`StackOverflow(0)` on a full value stack, `StackUnderflow(0)` on an empty one. -/
def Obligations.PushAppendsAndPopTakesTheLast : Prop :=
  ∀ (r : Reg) (s : State),
    (decode [0x24, regByte r] = .ok (.push r) ∧
      (s.vs.length ≠ s.cfg.vstackCap →
        ∃ t, exec (.push r) s = .next t ∧ t = { s with vs := s.vs ++ [s.reg r], pc := s.pc + 2 }) ∧
      (s.vs.length = s.cfg.vstackCap → RaisedOnly s (exec (.push r) s) .stackOverflow 0)) ∧
    decode [0x25, regByte r] = .ok (.pop r) ∧
    (∀ (below : List Byte) (v : Byte), s.vs = below ++ [v] →
      ∃ t, exec (.pop r) s = .next t ∧ t.reg r = v ∧ (∀ j, j ≠ r → t.reg j = s.reg j) ∧
        t = { s with regs := t.regs, vs := below, pc := s.pc + 2 }) ∧
    (s.vs = [] → RaisedOnly s (exec (.pop r) s) .stackUnderflow 0)

/-- 41_data.md R127, 20_memory.md R58 (decisions D8, D36): `LSTATE k24` copies byte `j` of heap state `k` to register `Rj`;
`AddressOutOfBounds` for a state that does not exist. -/
def Obligations.LstateReadsAWholeState : Prop :=
  ∀ (b1 b2 b3 : Byte) (s : State),
    let k := imm24 b1 b2 b3
    decode [0x26, b1, b2, b3] = .ok (.lstate k) ∧
    (k.toNat < s.heapLen → ∃ t, exec (.lstate k) s = .next t ∧
      (∀ j : Reg, t.reg j = s.mem.read (0x10000000 + 16 * k.toNat + j.val)) ∧
      t = { s with regs := t.regs, pc := s.pc + 4 }) ∧
    (s.heapLen ≤ k.toNat → RaisedOnly s (exec (.lstate k) s) .addressOutOfBounds (stateAddress k))

/-- 41_data.md R128, 20_memory.md R54, R58 (decisions D8, D28, D36): in a state of sound memory, `SSTATE k24` copies register `Rj` to
byte `j` of heap state `k`, growing the heap by vacuum states if needed, and every other address reads as before; `HeapOverflow` at or
beyond `HEAP_CAP`. -/
def Obligations.SstateWritesAWholeState : Prop :=
  ∀ (b1 b2 b3 : Byte) (s : State), s.MemInv → s.CapInv →
    let k := imm24 b1 b2 b3
    decode [0x27, b1, b2, b3] = .ok (.sstate k) ∧
    (k.toNat < s.cfg.heapCap → ∃ t, exec (.sstate k) s = .next t ∧
      (∀ j : Reg, t.mem.read ((stateAddress k).toNat + j.val) = s.reg j) ∧
      (∀ a : Nat, a < (stateAddress k).toNat ∨ (stateAddress k).toNat + 16 ≤ a → t.mem.read a = s.mem.read a) ∧
      (∀ a : Nat, 0x10000000 + 16 * s.heapLen ≤ a → a < (stateAddress k).toNat → t.mem.read a = 0x00) ∧
      t.heapLen = max s.heapLen (k.toNat + 1) ∧
      t = { s with mem := t.mem, heapLen := t.heapLen, pc := s.pc + 4 }) ∧
    (s.cfg.heapCap ≤ k.toNat → RaisedOnly s (exec (.sstate k) s) .heapOverflow (stateAddress k))

/-- 41_data.md R127, R128: a state stored by `SSTATE k` comes back by `LSTATE k`, whatever the registers became in between. -/
def Obligations.LstateRestoresWhatSstateSaved : Prop :=
  ∀ (k : BitVec 24) (s t : State) (v : Vector Byte 16), Memory.wf s.mem → k.toNat < s.cfg.heapCap →
    exec (.sstate k) s = .next t →
    ∃ u, exec (.lstate k) (writeState v t) = .next u ∧ u.regs = s.regs

/-- 20_memory.md R53, R56 (decision D27): every data access, read or write, whose selector is 3 or 4 to 14 raises
`AddressOutOfBounds` with its address, in every configuration. -/
def Obligations.UnmappedSegmentsAreOutOfBounds : Prop :=
  ∀ (s : State) (a : Addr) (n : Nat) (vs : List Byte), 3 ≤ a.toNat / 2 ^ 28 → a.toNat / 2 ^ 28 ≤ 14 → 0 < n → vs ≠ [] →
    s.memRead a n = .error ⟨.addressOutOfBounds, a⟩ ∧ s.memWrite a vs = .error ⟨.addressOutOfBounds, a⟩

/-- 20_memory.md R54 (decision D28): a write whose last byte lies in heap state `k`, `HEAP_LEN <= k < HEAP_CAP`, extends the heap to
`k + 1` states whose bytes read `0x00` where they are not written; at or beyond `HEAP_CAP` it raises `HeapOverflow`; below
`HEAP_LEN` it just writes. -/
def Obligations.HeapGrowsByVacuumStates : Prop :=
  ∀ (s : State) (a : Addr) (vs : List Byte), Memory.wf s.mem → segmentOf a = some .stateHeap → vs ≠ [] →
    let k := (offsetOf a + vs.length - 1) / 16
    (s.cfg.heapCap ≤ k → s.memWrite a vs = .error ⟨.heapOverflow, a⟩) ∧
    (k < s.cfg.heapCap → ∃ t, s.memWrite a vs = .ok t ∧ t.heapLen = max s.heapLen (k + 1) ∧
      ∀ b : Nat, t.mem.read b =
        if a.toNat ≤ b ∧ b < a.toNat + vs.length then vs.getD (b - a.toNat) 0
        else if heapBase + 16 * s.heapLen ≤ b ∧ b < heapBase + 16 * (k + 1) then 0
        else s.mem.read b)

/-! ### Layers -/

/-- 44_layer.md R186, R187, R188 (decisions D4, D10, D18): bit by bit, `XORL` is the parity of all sixteen old registers, `ANDL` their
conjunction, `ORL` their disjunction; `O` is 0. -/
def Obligations.ReductionsCombineAllLayers : Prop :=
  ∀ (d : Reg) (s : State),
    (decode [0x60, regByte d] = .ok (.xorl d) ∧ ∃ t, exec (.xorl d) s = .next t ∧
      (∀ k < 8, (t.reg d).getLsbD k =
        decide ((allLayers.filter fun i => (s.reg i).getLsbD k).length % 2 = 1)) ∧
      ArithEffect s t d (rho (t.reg d)) (theta (t.reg d)) false 2) ∧
    (decode [0x61, regByte d] = .ok (.andl d) ∧ ∃ t, exec (.andl d) s = .next t ∧
      (∀ k < 8, (t.reg d).getLsbD k = true ↔ ∀ i : Reg, (s.reg i).getLsbD k = true) ∧
      ArithEffect s t d (rho (t.reg d)) (theta (t.reg d)) false 2) ∧
    (decode [0x62, regByte d] = .ok (.orl d) ∧ ∃ t, exec (.orl d) s = .next t ∧
      (∀ k < 8, (t.reg d).getLsbD k = true ↔ ∃ i : Reg, (s.reg i).getLsbD k = true) ∧
      ArithEffect s t d (rho (t.reg d)) (theta (t.reg d)) false 2)

/-- 44_layer.md R189 (decision D19): `ROTL n` moves layer `i` to layer `(i + n) mod 16` and changes no flag; `ROTL n` followed by
`ROTL (16 - n) mod 16` restores the registers. -/
def Obligations.RotlMovesEveryLayer : Prop :=
  ∀ (n : Reg) (b : Byte) (s : State), decode [0x63, regByte n] = .ok (.rotl n) ∧
    (b.toNat / 16 ≠ 0 → decode [0x63, b] = .error (.illegalOperand 1 b)) ∧
    ∃ t, exec (.rotl n) s = .next t ∧
      (∀ i j : Reg, j.val = (i.val + n.val) % 16 → t.reg j = s.reg i) ∧
      t.sr = s.sr ∧ t.pc = s.pc + 2 ∧ SameOutside s t ∧
      ∀ m : Reg, m.val = (16 - n.val) % 16 → ∃ u, exec (.rotl m) t = .next u ∧ u.regs = s.regs

/-- 44_layer.md R190 (decision D20): `FOLD` writes the combination of layers `i` and `i + 8` to layer `i` below 8 and keeps layers 8 to 15
and the flags; folding twice by XOR restores the registers; other mode bytes are refused. -/
def Obligations.FoldCombinesLayerPairs : Prop :=
  decode [0x64, 0x00] = .ok (.fold .xor) ∧ decode [0x64, 0x01] = .ok (.fold .cadd) ∧
  decode [0x64, 0x02] = .ok (.fold .cmul) ∧
  (∀ b : Byte, 2 < b.toNat → decode [0x64, b] = .error (.illegalOperand 1 b)) ∧
  ∀ (m : FoldMode) (s : State), ∃ t, exec (.fold m) s = .next t ∧
    (∀ i j : Reg, i.val < 8 → j.val = i.val + 8 → t.reg j = s.reg j ∧
      match m with
      | .xor => t.reg i = s.reg i ^^^ s.reg j
      | .cadd => t.reg i = (cadd (s.reg i) (s.reg j)).1
      | .cmul => rho (t.reg i) = sat (rho (s.reg i) + rho (s.reg j)) ∧
          theta (t.reg i) = (theta (s.reg i) + theta (s.reg j)) % 16) ∧
    t.sr = s.sr ∧ t.pc = s.pc + 2 ∧ SameOutside s t ∧
    (m = .xor → ∃ u, exec (.fold .xor) t = .next u ∧ u.regs = s.regs)

/-- 44_layer.md R191 (decision D21): `SPREAD Rs, lo..hi` copies the old `Rs` to each layer of the range and changes no other
layer and no flag. -/
def Obligations.SpreadFillsTheRange : Prop :=
  ∀ (r lo hi : Reg) (s : State), decode [0x65, regByte r, nibbles hi lo] = .ok (.spread r lo hi) ∧
    ∃ t, exec (.spread r lo hi) s = .next t ∧
      (∀ i : Reg, ((i.val : Int) - lo.val) % 16 ≤ ((hi.val : Int) - lo.val) % 16 → t.reg i = s.reg r) ∧
      (∀ i : Reg, ((hi.val : Int) - lo.val) % 16 < ((i.val : Int) - lo.val) % 16 → t.reg i = s.reg i) ∧
      t.sr = s.sr ∧ t.pc = s.pc + 3 ∧ SameOutside s t

/-- 44_layer.md R192 (decision D21): bit by bit, `GATHER Rd, lo..hi` is the parity of the old layers of the range; one layer is
copied; the whole file gives what `XORL` gives. -/
def Obligations.GatherXorsTheRange : Prop :=
  ∀ (d lo hi : Reg) (s : State), decode [0x66, regByte d, nibbles hi lo] = .ok (.gather d lo hi) ∧
    ∃ t, exec (.gather d lo hi) s = .next t ∧
      (∀ k < 8, (t.reg d).getLsbD k =
        decide ((allLayers.filter fun i => decide (((i.val : Int) - lo.val) % 16 ≤ ((hi.val : Int) - lo.val) % 16) &&
          (s.reg i).getLsbD k).length % 2 = 1)) ∧
      ArithEffect s t d (rho (t.reg d)) (theta (t.reg d)) false 3 ∧
      (lo = hi → t.reg d = s.reg lo) ∧
      (lo = 0 → hi = 15 → exec (.xorl d) s = .next { t with pc := s.pc + 2 })

/-! ### Devices -/

/-- 46_system_io.md R221 (decision D25): `SENSE Rd, ix` checks its index first; a stream byte is taken while there is one, else the
sensor slot is read, and `E` tells an exhausted stream; `Z`, `N`, `O`, `C` stay. -/
def Obligations.SenseReadsStreamThenSensor : Prop :=
  ∀ (d : Reg) (ix : Byte) (s : State),
    decode [0xC0, regByte d, ix] = .ok (.sense d ix) ∧
    (16 ≤ ix.toNat → RaisedOnly s (exec (.sense d ix) s) .invalidSensor (ix.setWidth 32)) ∧
    ∀ h : ix.toNat < 16, ∃ t, exec (.sense d ix) s = .next t ∧
      t.sr = ⟨s.sr.z, s.sr.n, s.sr.o, s.sr.c,
        s.instream.attached && decide (s.instream.bytes.length ≤ s.instream.pos)⟩ ∧
      (∀ j, j ≠ d → t.reg j = s.reg j) ∧
      t = { s with regs := t.regs, sr := t.sr, instream := t.instream, pc := s.pc + 3 } ∧
      if hs : s.instream.attached = true ∧ s.instream.pos < s.instream.bytes.length then
        t.reg d = s.instream.bytes[s.instream.pos]'hs.2 ∧
        t.instream = { s.instream with pos := s.instream.pos + 1 }
      else t.reg d = s.sensor.get ⟨ix.toNat, h⟩ ∧ t.instream = s.instream

/-- 46_system_io.md R222 (decision D25): `ACT ix, Rs` writes the slot and appends one entry to the log; an index of 16 or more raises
`InvalidActuator`; an illegal register byte is refused first, whatever the index. -/
def Obligations.ActWritesSlotAndLog : Prop :=
  ∀ (ix b2 : Byte) (r : Reg) (s : State),
    decode [0xC1, ix, regByte r] = .ok (.act ix r) ∧
    (b2.toNat / 16 ≠ 0 → decode [0xC1, ix, b2] = .error (.illegalOperand 2 b2)) ∧
    (16 ≤ ix.toNat → RaisedOnly s (exec (.act ix r) s) .invalidActuator (ix.setWidth 32)) ∧
    ∀ h : ix.toNat < 16, ∃ t, exec (.act ix r) s = .next t ∧
      t.outlog = s.outlog ++ [⟨⟨ix.toNat, h⟩, s.reg r⟩] ∧
      (∀ j : Reg, t.actuator.get j = if j.val = ix.toNat then s.reg r else s.actuator.get j) ∧
      t = { s with actuator := t.actuator, outlog := t.outlog, pc := s.pc + 3 }

/-! ### Faults and the whole machine -/

/-- 60_exceptions.md R252 (decision D30), R251: a step that ends `FAULTED` changes nothing but `RUN` and `FAULT`, and records one of the
codes a step can raise. -/
def Obligations.FaultsArePrecise : Prop :=
  ∀ s t : State, s.run = .running → step s = .next t → t.run = .faulted →
    t = { s with run := .faulted, fault := t.fault } ∧ t.fault.code.toNat ∈ [1, 2, 3, 4, 5, 6, 7, 9, 10, 11]

/-- 60_exceptions.md R266, 70_reset_and_hazards.md R304 (decisions D30, D33): in every `FAULTED` state `ClearFault` sets `RUN = RUNNING`
and `FAULT = (0, 0)` and nothing else, and the next step executes the instruction at `pc`; after a step that faulted it gives
back the state before that step, which raises the same fault again; a `PUSH` that found a full value stack succeeds when the
host raises the capacity first; in another run state `ClearFault` does nothing. -/
def Obligations.ClearFaultRetriesTheInstruction : Prop :=
  (∀ s : State, s.run = .faulted → hostClearFault s = { s with run := .running, fault := ⟨0, 0⟩ } ∧
    ∀ i, decode (s.fetchWindow s.pc 4) = .ok i → step (hostClearFault s) = exec i (hostClearFault s)) ∧
  (∀ s t : State, s.run = .running → s.fault = ⟨0, 0⟩ → step s = .next t → t.run = .faulted →
    hostClearFault t = s ∧ step (hostClearFault t) = .next t) ∧
  (∀ (s t u : State) (r : Reg) (v : Nat), s.run = .running → s.fault = ⟨0, 0⟩ →
    decode (s.fetchWindow s.pc 4) = .ok (.push r) → s.vs.length = s.cfg.vstackCap → step s = .next t →
    s.cfg.vstackCap < v → setConfig .vstackCap v t = .ok u →
    t.run = .faulted ∧ step (hostClearFault u) =
      .next { s with cfg := { s.cfg with vstackCap := v }, vs := s.vs ++ [s.reg r], pc := s.pc + 2 }) ∧
  ∀ s : State, s.run ≠ .faulted → hostClearFault s = s

/-- 70_reset_and_hazards.md R301, R302 (decision D33), 60_exceptions.md R250, R275: every step, and every instruction executed,
answers a next state: a fault of the spec is recorded in it (log 3) and nothing is refused. A core that is not
`RUNNING` takes no step, and a run of it ends where it is. -/
def Obligations.EveryStepAnswersNext : Prop :=
  (∀ s : State, ∃ t, step s = .next t) ∧ (∀ (i : Instr) (s : State), ∃ t, exec i s = .next t) ∧
  ∀ s : State, s.run ≠ .running → step s = .next s ∧ ∀ fuel, hostRun fuel s = .next s

/-- The state invariant (20_memory.md R44, R54; 10_state.md R24 to R33; log 2): canonical memory inside the extents, depths inside the
capacities, `FAULT` in step with `RUN`, the stream's position inside it; kept by every step from every such state. -/
def Obligations.StepKeepsTheInvariant : Prop := ∀ s t : State, s.Inv → step s = .next t → t.Inv

/-- 10_state.md R37: the state after `Reset` satisfies the invariant, in every legal configuration and in the model's own (log 1). -/
def Obligations.ResetSatisfiesTheInvariant : Prop :=
  State.reset.Inv ∧ State.reset.PcBounded ∧ ∀ c : Cfg, c.Legal → (State.resetWith c).Inv ∧ (State.resetWith c).PcBounded

/-- 10_state.md R15, its "`pc` cannot wrap" ("derived" by the spec): `pc` and every saved return address stay at or below `2^24` on every
step. -/
def Obligations.StepKeepsPcBounded : Prop := ∀ s t : State, s.PcBounded → step s = .next t → t.PcBounded

/-- 10_state.md R19, R22, R28, R31, R35 and 20_memory.md R64 ("derived" by the spec): no step changes the code, `MODE`, the flag `C`, a
sensor slot, the stream's bytes or the configuration. -/
def Obligations.StepLeavesCodeAndSettings : Prop :=
  ∀ s t : State, Memory.wf s.mem → step s = .next t →
    (∀ a : Nat, a < 2 ^ 28 → t.mem.read a = s.mem.read a) ∧ t.codeLen = s.codeLen ∧ t.mode = s.mode ∧
    t.sr.c = s.sr.c ∧ t.sensor = s.sensor ∧ t.instream.attached = s.instream.attached ∧
    t.instream.bytes = s.instream.bytes ∧ t.cfg = s.cfg

/-- 10_state.md R20, R21, R26, R29, R32 and the flag table after R20: executing an instruction changes `E` and the stream only for `SENSE`;
`FP` and the call stack only for `CALL` and `RET`; the value stack only for `PUSH` and `POP`; the log only by one `ACT`
entry at its end; `Z`, `N`, `O` only for the Arithmetic instructions and the four reductions; `HEAP_LEN` only for `STORE` and
`SSTATE`, and it never falls. -/
def Obligations.EachStateHasItsWriters : Prop :=
  ∀ (i : Instr) (s t : State), exec i s = .next t →
    (i.opcode ≠ 0xC0 → t.sr.e = s.sr.e ∧ t.instream = s.instream) ∧
    (i.opcode ≠ 0x15 → i.opcode ≠ 0x02 → t.fp = s.fp ∧ t.cs = s.cs) ∧
    (i.opcode ≠ 0x24 → i.opcode ≠ 0x25 → t.vs = s.vs) ∧
    (i.opcode ≠ 0xC1 → t.outlog = s.outlog ∧ t.actuator = s.actuator) ∧
    (categoryOf i.opcode ≠ .arithmetic → i.opcode ∉ ([0x60, 0x61, 0x62, 0x66] : List Byte) →
      t.sr.z = s.sr.z ∧ t.sr.n = s.sr.n ∧ t.sr.o = s.sr.o) ∧
    (i.opcode ≠ 0x23 → i.opcode ≠ 0x27 → t.heapLen = s.heapLen) ∧
    s.heapLen ≤ t.heapLen ∧ ∃ l : List LogEntry, t.outlog = s.outlog ++ l ∧ l.length ≤ 1

/-! ### Reset and the host -/

/-- 10_state.md R37, 70_reset_and_hazards.md R290 (decision D32): what `Reset` leaves, and that the first step after a bare `Reset` raises
`AddressOutOfBounds(0)`. -/
def Obligations.ResetClearsEverything : Prop :=
  ∀ s : State,
    let t := hostReset s
    (∀ i : Reg, t.reg i = 0x00 ∧ t.sensor.get i = 0x00 ∧ t.actuator.get i = 0x00) ∧
    t.pc = 0 ∧ readSR t = 0x00 ∧ t.fp = 0 ∧ t.mode = 0 ∧ t.run = .running ∧ t.fault = ⟨0, 0⟩ ∧
    t.vs = [] ∧ t.cs = [] ∧ t.codeLen = 0 ∧ t.heapLen = 0 ∧ (∀ a : Nat, t.mem.read a = 0x00) ∧
    t.outlog = [] ∧ t.instream = ⟨false, [], 0⟩ ∧ t.cfg = s.cfg ∧
    RaisedOnly t (step t) .addressOutOfBounds 0

/-- 70_reset_and_hazards.md R292 (decision D34): a load within the limits installs the code, the data as whole heap states padded with
`0x00`, the entry point and the mode on a reset core: every address outside the code and these states reads `0x00`, and so does
every port; beyond a limit it is refused. -/
def Obligations.LoadInstallsTheImage : Prop :=
  ∀ (code data : List Byte) (entry : Addr) (mode : BitVec 16) (s : State),
    (2 ^ 24 < code.length → hostLoad code data entry mode s = .error .invalidBytecode) ∧
    (code.length ≤ 2 ^ 24 → 16 * s.cfg.heapCap < data.length →
      hostLoad code data entry mode s = .error .heapOverflow) ∧
    (code.length ≤ 2 ^ 24 → data.length ≤ 16 * s.cfg.heapCap → ∃ t, hostLoad code data entry mode s = .ok t ∧
      (∀ k (h : k < code.length), t.fetchByte (BitVec.ofNat 32 k) = some code[k]) ∧
      (data.length ≤ 16 * t.heapLen ∧ 16 * t.heapLen < data.length + 16) ∧
      (∀ k < 16 * t.heapLen, t.mem.read (0x10000000 + k) = data.getD k 0x00) ∧
      (∀ a : Nat, code.length ≤ a → (a < 0x10000000 ∨ 0x10000000 + 16 * t.heapLen ≤ a) → t.mem.read a = 0x00) ∧
      (s.cfg.heapCap ≤ 2 ^ 24 → ∀ i < s.cfg.ioPorts, readPort i t = .ok 0x00) ∧
      t = { hostReset s with mem := t.mem, codeLen := code.length, heapLen := t.heapLen, pc := entry, mode := mode })

/-- 70_reset_and_hazards.md R303, R305, R306, R308, R309, R310, R311, 10_state.md R16 (decisions D10, D29, D33): `Resume` acts only on
`YIELDED`; `WriteSR(v)` takes `Z N O C E` from bits 0 to 4 of `v` and leaves `v & 0x1F` to be read; `DrainLog` returns the log and
empties it; attaching, detaching and reading a stream, and when it is exhausted; the register, sensor and actuator operations
reach one slot, or all registers, and are refused beyond 15; `SetConfig` changes one capacity and is refused outside its legal
range or below what is in use, added ports read `0x00` and kept ports what they held, `TT_SIZE` may only be 0 and `CODE_MAX`
stays `2^24`. -/
def Obligations.HostOperationsActAsListed : Prop :=
  ∀ (s : State) (v : Byte) (bytes : List Byte),
    (s.run = .yielded → hostResume s = { s with run := .running }) ∧ (s.run ≠ .yielded → hostResume s = s) ∧
    ((writeSR v s).sr = ⟨v.getLsbD 0, v.getLsbD 1, v.getLsbD 2, v.getLsbD 3, v.getLsbD 4⟩) ∧
    readSR (writeSR v s) = v &&& 0x1F ∧ writeSR v s = { s with sr := (writeSR v s).sr } ∧
    writeSR (readSR s) s = s ∧
    drainLog s = (s.outlog, { s with outlog := [] }) ∧
    attachStream bytes s = { s with instream := ⟨true, bytes, 0⟩ } ∧
    detachStream s = { s with instream := ⟨false, [], 0⟩ } ∧
    readStream s = (s.instream.attached, s.instream.pos, s.instream.bytes.length) ∧
    (streamExhausted s = true ↔ s.instream.attached = true ∧ s.instream.pos = s.instream.bytes.length) ∧
    (∀ i : Reg, readReg i.val s = .ok (s.reg i) ∧ (readState s).get i = s.reg i ∧
      readSensor i.val s = .ok (s.sensor.get i) ∧ readActuator i.val s = .ok (s.actuator.get i) ∧
      (∃ t, writeReg i.val v s = .ok t ∧ (∀ j : Reg, t.reg j = if j = i then v else s.reg j) ∧
        t = { s with regs := t.regs }) ∧
      (∃ t, writeSensor i.val v s = .ok t ∧ (∀ j : Reg, t.sensor.get j = if j = i then v else s.sensor.get j) ∧
        t = { s with sensor := t.sensor })) ∧
    (∀ w : Vector Byte 16, (∀ i : Reg, (writeState w s).reg i = w.get i) ∧
      writeState w s = { s with regs := (writeState w s).regs }) ∧
    (∀ n : Nat, 16 ≤ n → (∃ e, readReg n s = .error e) ∧ (∃ e, writeReg n v s = .error e) ∧
      readSensor n s = .error .invalidSensor ∧ writeSensor n v s = .error .invalidSensor ∧
      readActuator n s = .error .invalidActuator) ∧
    (∀ n : Nat,
      SetsOrRefuses (setConfig .heapCap n s) (n ≤ 2 ^ 24 ∧ s.heapLen ≤ n)
        { s with cfg := { s.cfg with heapCap := n } } ∧
      SetsOrRefuses (setConfig .vstackCap n s) (n ≤ 2 ^ 32 - 1 ∧ s.vs.length ≤ n)
        { s with cfg := { s.cfg with vstackCap := n } } ∧
      SetsOrRefuses (setConfig .cstackCap n s) (n ≤ 2 ^ 32 - 1 ∧ s.cs.length ≤ n)
        { s with cfg := { s.cfg with cstackCap := n } } ∧
      SetsOrRefuses (setConfig .ttSize n s) (n = 0) s ∧
      (65536 < n → ∃ e, setConfig .ioPorts n s = .error e) ∧
      (n ≤ 65536 → ∃ t, setConfig .ioPorts n s = .ok t ∧
        (∀ i : Nat, (i < n → i < s.cfg.ioPorts → readPort i t = readPort i s) ∧
          (i < n → s.cfg.ioPorts ≤ i → readPort i t = .ok 0x00) ∧
          (n ≤ i → readPort i t = .error .invalidPort)) ∧
        (∀ a : Nat, a < 0xF0000000 → t.mem.read a = s.mem.read a) ∧
        t = { s with mem := t.mem, cfg := { s.cfg with ioPorts := n } })) ∧
    ∀ (name : ConfigName) (n : Nat) (t : State), setConfig name n s = .ok t →
      ∀ (code data : List Byte) (entry : Addr) (mode : BitVec 16),
        (2 ^ 24 < code.length → hostLoad code data entry mode t = .error .invalidBytecode) ∧
        (code.length ≤ 2 ^ 24 → data = [] → ∃ u, hostLoad code data entry mode t = .ok u)

/-- 70_reset_and_hazards.md R290 to R312, 60_exceptions.md R256: every host operation that is not refused keeps the invariant, `Run` under any
number of steps (R302) among them; `Step` (R301) is StepKeepsTheInvariant. -/
def Obligations.HostOperationsKeepTheInvariant : Prop :=
  ∀ s : State, s.Inv →
    (hostReset s).Inv ∧ (hostResume s).Inv ∧ (hostClearFault s).Inv ∧ (drainLog s).2.Inv ∧ (detachStream s).Inv ∧
    (∀ bytes, (attachStream bytes s).Inv) ∧ (∀ v, (writeSR v s).Inv) ∧ (∀ v, (writeState v s).Inv) ∧
    (∀ i v t, writeReg i v s = .ok t → t.Inv) ∧ (∀ i v t, writeSensor i v s = .ok t → t.Inv) ∧
    (∀ i v t, writePort i v s = .ok t → t.Inv) ∧ (∀ n v t, setConfig n v s = .ok t → t.Inv) ∧
    (∀ fuel t, hostRun fuel s = .next t → t.Inv) ∧
    ∀ code data entry mode t, hostLoad code data entry mode s = .ok t → t.Inv

/-- 70_reset_and_hazards.md R312 (decision D24, D33): `WritePort` writes one port and is what the program's next `LOAD` from
that port returns; a value the program stores to a port is what `ReadPort` returns; beyond `IO_PORTS` both operations are
refused. -/
def Obligations.PortsConnectHostAndProgram : Prop :=
  ∀ (s : State) (i : BitVec 16) (d : Reg) (v : Byte), Memory.wf s.mem →
    (i.toNat < s.cfg.ioPorts → ∃ t u, writePort i.toNat v s = .ok t ∧ t = { s with mem := t.mem } ∧
      (∀ a : Nat, t.mem.read a = if a = 0xF0000000 + i.toNat then v else s.mem.read a) ∧
      (∀ j < s.cfg.ioPorts, readPort j t = .ok (t.mem.read (0xF0000000 + j))) ∧
      exec (.load 15 d i) t = .next u ∧ u.reg d = v) ∧
    (i.toNat < s.cfg.ioPorts → ∃ t, exec (.store 15 d i) s = .next t ∧ readPort i.toNat t = .ok (s.reg d)) ∧
    ∀ n : Nat, s.cfg.ioPorts ≤ n → readPort n s = .error .invalidPort ∧ writePort n v s = .error .invalidPort
end

