-- ==== Sys2Proof/Laws/ByteSil.lean ====
section
/-! SUPPORT. The packing of a ByteSil and the bounds of its fields. -/

namespace Sys2Proof.Machine

theorem rho_range (b : Byte) : -8 ≤ rho b ∧ rho b ≤ 7 := by
  have := b.isLt; unfold rho; omega

theorem theta_range (b : Byte) : 0 ≤ theta b ∧ theta b ≤ 15 := by
  unfold theta; omega

/-- A byte is its two fields. -/
theorem toNat_eq_fields (b : Byte) : (b.toNat : Int) = (rho b + 8) * 16 + theta b := by
  unfold rho theta; omega

theorem sat_range (v : Int) : -8 ≤ sat v ∧ sat v ≤ 7 := by
  unfold sat; split_ifs <;> omega

theorem sat_of_range {v : Int} (h : -8 ≤ v ∧ v ≤ 7) : sat v = v := by
  unfold sat; split_ifs <;> omega

theorem ovf_eq_false_iff (v : Int) : ovf v = false ↔ -8 ≤ v ∧ v ≤ 7 := by
  simp [ovf]

theorem pack_toNat {r : Int} (h : -8 ≤ r ∧ r ≤ 7) (t : Int) :
    (pack r t).toNat = (r + 8).toNat * 16 + (t % 16).toNat := by
  simp only [pack, BitVec.toNat_ofNat]; omega

theorem rho_pack {r : Int} (h : -8 ≤ r ∧ r ≤ 7) (t : Int) : rho (pack r t) = r := by
  simp only [rho, pack_toNat h]; omega

theorem theta_pack {r : Int} (h : -8 ≤ r ∧ r ≤ 7) (t : Int) : theta (pack r t) = t % 16 := by
  simp only [theta, pack_toNat h]; omega

@[simp] theorem rho_pack_sat (v t : Int) : rho (pack (sat v) t) = sat v := rho_pack (sat_range v) t

@[simp] theorem theta_pack_sat (v t : Int) : theta (pack (sat v) t) = t % 16 := theta_pack (sat_range v) t

@[simp] theorem rho_pack_rho (b : Byte) (t : Int) : rho (pack (rho b) t) = rho b := rho_pack (rho_range b) t

@[simp] theorem theta_pack_rho (b : Byte) (t : Int) : theta (pack (rho b) t) = t % 16 :=
  theta_pack (rho_range b) t

/-- Two bytes with the same fields are equal. -/
theorem byte_ext {a b : Byte} (hr : rho a = rho b) (ht : theta a = theta b) : a = b := by
  apply BitVec.eq_of_toNat_eq
  have := toNat_eq_fields a; have := toNat_eq_fields b; omega

theorem pack_rho_theta (b : Byte) : pack (rho b) (theta b) = b :=
  byte_ext (rho_pack_rho b _) (by rw [theta_pack_rho]; have := theta_range b; omega)

/-- The phase argument of `pack` counts modulo 16. -/
theorem pack_emod (r t : Int) : pack r (t % 16) = pack r t := by
  simp [pack]

end Sys2Proof.Machine
end

