-- ==== Sys2Proof/Laws/Decode.lean ====
section
/-! SUPPORT. The fields of an encoding come back from its bytes. -/

namespace Sys2Proof

/-- A concatenation as a number: the left part in the more significant bits. -/
theorem append_toNat {v w : Nat} (x : BitVec v) (y : BitVec w) : (x ++ y).toNat = x.toNat * 2 ^ w + y.toNat := by
  rw [BitVec.toNat_append, Nat.shiftLeft_eq, Nat.mul_comm, ← Nat.two_pow_add_eq_or_of_lt y.isLt]

@[simp] theorem lowNibble_regByte (r : Reg) : lowNibble (regByte r) = r := by
  revert r; decide

@[simp] theorem regByte_toNat (r : Reg) : (regByte r).toNat = r.val := by
  simp only [regByte, BitVec.toNat_ofNat]; omega

@[simp] theorem withReg_regByte (k : Nat) (r : Reg) (f : Reg → Except DecodeError Instr) :
    withReg k (regByte r) f = f r := by
  simp [withReg]

@[simp] theorem lowNibble_nibbles (hi lo : Reg) : lowNibble (nibbles hi lo) = lo := by
  simp only [lowNibble, nibbles, BitVec.toNat_ofNat, Fin.ext_iff]; omega

@[simp] theorem highNibble_nibbles (hi lo : Reg) : highNibble (nibbles hi lo) = hi := by
  simp only [highNibble, nibbles, BitVec.toNat_ofNat, Fin.ext_iff]; omega

theorem imm24_toNat (b1 b2 b3 : Byte) :
    (imm24 b1 b2 b3).toNat = b1.toNat + b2.toNat * 256 + b3.toNat * 65536 := by
  simp only [imm24, append_toNat]; omega

theorem imm16_toNat (b2 b3 : Byte) : (imm16 b2 b3).toNat = b2.toNat + b3.toNat * 256 := by
  simp only [imm16, append_toNat]; omega

@[simp] theorem imm24_bytes (t : BitVec 24) :
    imm24 (t.extractLsb' 0 8) (t.extractLsb' 8 8) (t.extractLsb' 16 8) = t := by
  apply BitVec.eq_of_toNat_eq
  have := t.isLt
  simp only [imm24_toNat, BitVec.extractLsb'_toNat, Nat.shiftRight_eq_div_pow]
  omega

@[simp] theorem imm16_bytes (t : BitVec 16) : imm16 (t.extractLsb' 0 8) (t.extractLsb' 8 8) = t := by
  apply BitVec.eq_of_toNat_eq
  have := t.isLt
  simp only [imm16_toNat, BitVec.extractLsb'_toNat, Nat.shiftRight_eq_div_pow]
  omega

theorem segReg_toNat (g : BitVec 4) (r : Reg) : (segReg g r).toNat = g.toNat * 16 + r.val := by
  have := r.isLt
  simp only [segReg, append_toNat, BitVec.toNat_ofNat]; omega

@[simp] theorem segField_segReg (g : BitVec 4) (r : Reg) : segField (segReg g r) = g := by
  apply BitVec.eq_of_toNat_eq
  have := g.isLt; have := r.isLt
  simp only [segField, BitVec.extractLsb'_toNat, segReg_toNat, Nat.shiftRight_eq_div_pow]
  omega

@[simp] theorem lowNibble_segReg (g : BitVec 4) (r : Reg) : lowNibble (segReg g r) = r := by
  simp only [lowNibble, segReg_toNat, Fin.ext_iff]; omega

@[simp] theorem foldModeOf_byte (m : FoldMode) : foldModeOf m.byte = some m := by
  cases m <;> rfl

/-! ### Everything `decode` can do on an assigned opcode -/

/-- An opcode of class "u" is told by its first byte. -/
theorem decode_unsupported {op : Byte} (ops : List Byte) {f : Format} {i : Instr} (hf : formatOf op = some f)
    (hu : unsupportedOf op = some i) : decode (op :: ops) = .ok i := by
  simp only [decode, hf, hu]

/-- A truncated instruction is missing its first absent byte. -/
theorem decode_short {op : Byte} {ops : List Byte} {f : Format} (hf : formatOf op = some f)
    (hu : unsupportedOf op = none) (hl : ops.length + 1 < f.width) :
    decode (op :: ops) = .error (.missing (ops.length + 1)) := by
  simp only [decode, hf, hu]; rw [if_pos hl]

/-- A stub or a hint that is there whole. -/
theorem decode_inert {op : Byte} {ops : List Byte} {f : Format} {i : Instr} (hf : formatOf op = some f)
    (hu : unsupportedOf op = none) (hi : inertOf op = some i) (hl : f.width ≤ ops.length + 1) :
    decode (op :: ops) = .ok i := by
  simp only [decode, hf, hu, hi]; rw [if_neg (by omega)]

/-- An opcode of class "x" that is there whole: its operand checks and fields. -/
theorem decode_executes {op : Byte} {ops : List Byte} {f : Format} (hf : formatOf op = some f)
    (hu : unsupportedOf op = none) (hi : inertOf op = none) (hl : f.width ≤ ops.length + 1) :
    decode (op :: ops) = decodeOperands op (ops.getD 0 0) (ops.getD 1 0) (ops.getD 2 0) := by
  simp only [decode, hf, hu, hi]; rw [if_neg (by omega)]

end Sys2Proof
end

