-- ==== Sys2Proof/Laws/Memory.lean ====
section
/-! SUPPORT. Every memory operation keeps the canonical form, and what a read sees after each. -/

namespace Sys2Proof.Machine

theorem Memory.read_cons (k : Nat) (v : Byte) (m : Memory) (a : Nat) :
    Memory.read ((k, v) :: m) a = if k = a then v else m.read a := rfl

@[simp] theorem Memory.read_nil (a : Nat) : Memory.read [] a = 0 := rfl

/-- An address that is not listed reads `0x00`. -/
theorem Memory.read_of_not_listed (m : Memory) (a : Nat) (h : ∀ x ∈ m, x.1 ≠ a) : m.read a = 0 := by
  induction m with
  | nil => rfl
  | cons x m ih =>
    obtain ⟨k, v⟩ := x
    have hk : k ≠ a := h (k, v) (by simp)
    simp only [Memory.read_cons, hk, if_false]
    exact ih fun y hy => h y (by simp [hy])

/-- A listed cell reads as it is listed. -/
theorem Memory.read_of_mem (m : Memory) (h : Memory.wf m) (x : Host.Cell) (hx : x ∈ m) : m.read x.1 = x.2 := by
  induction m with
  | nil => simp at hx
  | cons y m ih =>
    obtain ⟨k, v⟩ := y
    rcases List.mem_cons.1 hx with rfl | hx'
    · simp [Memory.read_cons]
    · have := (List.pairwise_cons.1 h.1).1 x hx'
      have hne : k ≠ x.1 := by simp at this; omega
      simp only [Memory.read_cons, hne, if_false]
      exact ih ⟨(List.pairwise_cons.1 h.1).2, fun z hz => h.2 z (by simp [hz])⟩ hx'

theorem Memory.wf_tail {x : Host.Cell} {m : Memory} (h : Memory.wf (x :: m)) : Memory.wf m :=
  ⟨(List.pairwise_cons.1 h.1).2, fun z hz => h.2 z (by simp [hz])⟩

/-- The addresses a write leaves listed. -/
theorem Memory.mem_write (m : Memory) (a : Nat) (v : Byte) (x : Host.Cell) (h : x ∈ m.write a v) :
    x = (a, v) ∧ v ≠ 0 ∨ x ∈ m := by
  induction m with
  | nil =>
    simp only [Memory.write] at h
    split at h <;> simp_all
  | cons y m ih =>
    obtain ⟨k, w⟩ := y
    simp only [Memory.write] at h
    split_ifs at h <;> simp only [List.mem_cons] at h ⊢ <;> tauto

/-- Storing a byte keeps the canonical form. -/
theorem Memory.write_wf (m : Memory) (a : Nat) (v : Byte) (h : Memory.wf m) : Memory.wf (m.write a v) := by
  induction m with
  | nil =>
    simp only [Memory.write]
    split
    · exact h
    · exact ⟨List.pairwise_singleton _ _, by simpa using ‹¬v = 0›⟩
  | cons y m ih =>
    obtain ⟨k, w⟩ := y
    have hp := List.pairwise_cons.1 h.1
    simp only [Memory.write]
    split_ifs with h1 h2 h3 h4
    · exact h
    · refine ⟨List.pairwise_cons.2 ⟨?_, h.1⟩, ?_⟩
      · intro z hz
        rcases List.mem_cons.1 hz with rfl | hz
        · exact h1
        · have := hp.1 z hz; simp at this ⊢; omega
      · intro z hz
        rcases List.mem_cons.1 hz with rfl | hz
        · exact h2
        · exact h.2 z hz
    · exact Memory.wf_tail h
    · refine ⟨List.pairwise_cons.2 ⟨?_, hp.2⟩, ?_⟩
      · intro z hz; have := hp.1 z hz; simp at this ⊢; omega
      · intro z hz
        rcases List.mem_cons.1 hz with rfl | hz
        · exact h4
        · exact h.2 z (by simp [hz])
    · have ih' := ih (Memory.wf_tail h)
      refine ⟨List.pairwise_cons.2 ⟨?_, ih'.1⟩, ?_⟩
      · intro z hz
        rcases Memory.mem_write m a v z hz with ⟨rfl, _⟩ | hz
        · simp; omega
        · exact hp.1 z hz
      · intro z hz
        rcases List.mem_cons.1 hz with rfl | hz
        · exact h.2 _ (by simp)
        · exact ih'.2 z hz

/-- A canonical memory lists nothing at or below the addresses before its first cell. -/
theorem Memory.read_below {k : Nat} {w : Byte} {m : Memory} (h : Memory.wf ((k, w) :: m)) (c : Nat)
    (hc : c ≤ k) : m.read c = 0 :=
  Memory.read_of_not_listed m c fun x hx => by
    have := (List.pairwise_cons.1 h.1).1 x hx
    simp only at this; omega

/-- A read after a write: the stored byte at its address, every other address as before. -/
theorem Memory.read_write (m : Memory) (a : Nat) (v : Byte) (h : Memory.wf m) (b : Nat) :
    (m.write a v).read b = if b = a then v else m.read b := by
  induction m with
  | nil =>
    simp only [Memory.write]
    split_ifs with h1 h2 h2
    · simp [h1]
    · rfl
    · simp [Memory.read_cons, h2]
    · simp [Memory.read_cons, Ne.symm h2]
  | cons y m ih =>
    obtain ⟨k, w⟩ := y
    have hb := Memory.read_below h
    simp only [Memory.write]
    rcases Nat.lt_trichotomy a k with hk | rfl | hk
    · rw [if_pos hk]
      split_ifs with h0 h1 h1
      · subst h1 h0; rw [Memory.read_cons, if_neg (by omega)]; exact hb b (by omega)
      · rfl
      · subst h1; simp [Memory.read_cons]
      · rw [Memory.read_cons, if_neg (Ne.symm h1)]
    · rw [if_neg (lt_irrefl _), if_pos rfl]
      split_ifs with h0 h1 h1
      · subst h1 h0; exact hb b (le_refl _)
      · rw [Memory.read_cons, if_neg (Ne.symm h1)]
      · subst h1; simp [Memory.read_cons]
      · simp only [Memory.read_cons, if_neg (Ne.symm h1)]
    · rw [if_neg (by omega), if_neg (by omega)]
      simp only [Memory.read_cons, ih (Memory.wf_tail h)]
      split_ifs <;> first | rfl | omega

theorem Memory.writeBytes_wf (m : Memory) (a : Nat) (vs : List Byte) (h : Memory.wf m) :
    Memory.wf (m.writeBytes a vs) := by
  induction vs generalizing m a with
  | nil => exact h
  | cons v vs ih => exact ih _ _ (Memory.write_wf m a v h)

/-- The cells that storing bytes leaves: stored ones inside the stored range, and old ones. -/
theorem Memory.mem_writeBytes (m : Memory) (a : Nat) (vs : List Byte) (x : Host.Cell)
    (h : x ∈ m.writeBytes a vs) : (a ≤ x.1 ∧ x.1 < a + vs.length) ∨ x ∈ m := by
  induction vs generalizing m a with
  | nil => exact Or.inr h
  | cons v vs ih =>
    rcases ih _ _ h with h' | h'
    · left; simp; omega
    · rcases Memory.mem_write m a v x h' with ⟨rfl, _⟩ | h''
      · left; simp
      · exact Or.inr h''

/-- A read after storing bytes at ascending addresses. -/
theorem Memory.read_writeBytes (m : Memory) (a : Nat) (vs : List Byte) (h : Memory.wf m) (b : Nat) :
    (m.writeBytes a vs).read b =
      if a ≤ b ∧ b < a + vs.length then vs.getD (b - a) 0 else m.read b := by
  induction vs generalizing m a with
  | nil => simp only [Memory.writeBytes, List.length_nil]; rw [if_neg (by omega)]
  | cons v vs ih =>
    simp only [Memory.writeBytes, ih _ _ (Memory.write_wf m a v h), Memory.read_write m a v h, List.length_cons]
    by_cases hb : b = a
    · subst hb
      rw [if_neg (by omega), if_pos rfl, if_pos (by omega)]; simp
    · by_cases hr : a + 1 ≤ b ∧ b < a + 1 + vs.length
      · rw [if_pos hr, if_pos (by omega)]
        obtain ⟨j, rfl⟩ : ∃ j, b = a + 1 + j := ⟨b - (a + 1), by omega⟩
        have e1 : a + 1 + j - (a + 1) = j := by omega
        have e2 : a + 1 + j - a = j + 1 := by omega
        rw [e1, e2, List.getD_cons_succ]
      · rw [if_neg hr, if_neg hb, if_neg (by omega)]

theorem Memory.clear_wf (m : Memory) (lo hi : Nat) (h : Memory.wf m) : Memory.wf (m.clear lo hi) :=
  ⟨h.1.sublist List.filter_sublist, fun x hx => h.2 x (List.mem_of_mem_filter hx)⟩

/-- The cells that clearing a range leaves. -/
theorem Memory.mem_clear (m : Memory) (lo hi : Nat) (x : Host.Cell) :
    x ∈ m.clear lo hi ↔ x ∈ m ∧ ¬(lo ≤ x.1 ∧ x.1 < hi) := by
  simp only [Memory.clear, List.mem_filter]
  constructor <;> rintro ⟨h1, h2⟩ <;> refine ⟨h1, ?_⟩ <;> simp at h2 ⊢ <;> omega

/-- A read after clearing a range. -/
theorem Memory.read_clear (m : Memory) (lo hi b : Nat) :
    (m.clear lo hi).read b = if lo ≤ b ∧ b < hi then 0 else m.read b := by
  induction m with
  | nil => simp [Memory.clear]
  | cons x m ih =>
    obtain ⟨k, v⟩ := x
    by_cases hk : lo ≤ k ∧ k < hi
    · have : Memory.clear ((k, v) :: m) lo hi = Memory.clear m lo hi := by
        simp [Memory.clear, hk.1, hk.2]
      rw [this, ih]
      split_ifs with hb
      · rfl
      · rw [Memory.read_cons, if_neg (by rintro rfl; exact hb hk)]
    · have : Memory.clear ((k, v) :: m) lo hi = (k, v) :: Memory.clear m lo hi := by
        simp only [Memory.clear, List.filter_cons]
        rw [if_pos (by simp; omega)]
      rw [this, Memory.read_cons, ih, Memory.read_cons]
      split_ifs with h1 h2 <;> first | rfl | (subst h1; exact absurd h2 hk)

/-- The cells of a byte string lie inside it. -/
theorem Memory.mem_ofBytes (base : Nat) (bs : List Byte) (x : Host.Cell) (h : x ∈ Memory.ofBytes base bs) :
    (base ≤ x.1 ∧ x.1 < base + bs.length) ∧ x.2 ≠ 0 := by
  induction bs generalizing base with
  | nil => simp [Memory.ofBytes] at h
  | cons b bs ih =>
    simp only [Memory.ofBytes] at h
    split_ifs at h with hb
    · obtain ⟨h1, h2⟩ := ih _ h
      exact ⟨by simp only [List.length_cons]; omega, h2⟩
    · rcases List.mem_cons.1 h with rfl | h
      · exact ⟨by simp, hb⟩
      · obtain ⟨h1, h2⟩ := ih _ h
        exact ⟨by simp only [List.length_cons]; omega, h2⟩

theorem Memory.ofBytes_wf (base : Nat) (bs : List Byte) : Memory.wf (Memory.ofBytes base bs) := by
  refine ⟨?_, fun x hx => (Memory.mem_ofBytes base bs x hx).2⟩
  induction bs generalizing base with
  | nil => simp [Memory.ofBytes]
  | cons b bs ih =>
    simp only [Memory.ofBytes]
    split_ifs with hb
    · exact ih _
    · refine List.pairwise_cons.2 ⟨fun x hx => ?_, ih _⟩
      have := (Memory.mem_ofBytes _ bs x hx).1; simp; omega

/-- A read of a byte string's memory. -/
theorem Memory.read_ofBytes (base : Nat) (bs : List Byte) (a : Nat) :
    (Memory.ofBytes base bs).read a = if base ≤ a ∧ a < base + bs.length then bs.getD (a - base) 0 else 0 := by
  induction bs generalizing base with
  | nil => simp [Memory.ofBytes]
  | cons b bs ih =>
    have step : (Memory.ofBytes base (b :: bs)).read a = if base = a then b else (Memory.ofBytes (base + 1) bs).read a := by
      simp only [Memory.ofBytes]
      split_ifs with hb ha
      · subst ha hb
        exact Memory.read_of_not_listed _ _ fun x hx => by have := (Memory.mem_ofBytes _ bs x hx).1; omega
      · rfl
      · simp [Memory.read_cons, *]
      · simp [Memory.read_cons, *]
    rw [step, ih]
    by_cases ha : base = a
    · subst ha; simp
    · rw [if_neg ha]
      by_cases hr : base + 1 ≤ a ∧ a < base + 1 + bs.length
      · rw [if_pos hr, if_pos (by simp; omega)]
        obtain ⟨j, rfl⟩ : ∃ j, a = base + 1 + j := ⟨a - (base + 1), by omega⟩
        have e1 : base + 1 + j - (base + 1) = j := by omega
        have e2 : base + 1 + j - base = j + 1 := by omega
        rw [e1, e2, List.getD_cons_succ]
      · rw [if_neg hr, if_neg (by simp; omega)]

/-- A read of two memories side by side, the first listing only addresses below the second's. -/
theorem Memory.read_append (m n : Memory) (a : Nat) :
    Memory.read (m ++ n) a = if (∃ x ∈ m, x.1 = a) then m.read a else n.read a := by
  induction m with
  | nil => simp
  | cons x m ih =>
    obtain ⟨k, v⟩ := x
    simp only [List.cons_append, Memory.read_cons, ih]
    by_cases hk : k = a
    · simp [hk]
    · simp [hk]

theorem Memory.append_wf (m n : Memory) (hm : Memory.wf m) (hn : Memory.wf n)
    (h : ∀ x ∈ m, ∀ y ∈ n, x.1 < y.1) : Memory.wf (m ++ n) := by
  refine ⟨List.pairwise_append.2 ⟨hm.1, hn.1, h⟩, fun x hx => ?_⟩
  rcases List.mem_append.1 hx with hx | hx
  · exact hm.2 x hx
  · exact hn.2 x hx

/-- The bytes read one by one. -/
theorem Memory.readBytes_getD (m : Memory) (a n i : Nat) (h : i < n) :
    (m.readBytes a n).getD i 0 = m.read (a + i) := by
  simp [Memory.readBytes, List.getD_eq_getElem?_getD, h]

@[simp] theorem Memory.readBytes_length (m : Memory) (a n : Nat) : (m.readBytes a n).length = n := by
  simp [Memory.readBytes]

end Sys2Proof.Machine
end

