-- ==== Sys2Proof/Laws/State.lean ====
section
/-! SUPPORT. The small lemmas of every state update: one per field it leaves, and what it writes. -/

namespace Sys2Proof.Machine

variable (s : State)

/-! ### `State.raise` -/

@[simp] theorem State.raise_regs (k : FaultKind) (info : BitVec 32) : (s.raise k info).regs = s.regs := rfl
@[simp] theorem State.raise_pc (k : FaultKind) (info : BitVec 32) : (s.raise k info).pc = s.pc := rfl
@[simp] theorem State.raise_sr (k : FaultKind) (info : BitVec 32) : (s.raise k info).sr = s.sr := rfl
@[simp] theorem State.raise_fp (k : FaultKind) (info : BitVec 32) : (s.raise k info).fp = s.fp := rfl
@[simp] theorem State.raise_mode (k : FaultKind) (info : BitVec 32) : (s.raise k info).mode = s.mode := rfl
@[simp] theorem State.raise_run (k : FaultKind) (info : BitVec 32) : (s.raise k info).run = .faulted := rfl
@[simp] theorem State.raise_fault (k : FaultKind) (info : BitVec 32) : (s.raise k info).fault = ⟨k.code, info⟩ := rfl
@[simp] theorem State.raise_vs (k : FaultKind) (info : BitVec 32) : (s.raise k info).vs = s.vs := rfl
@[simp] theorem State.raise_cs (k : FaultKind) (info : BitVec 32) : (s.raise k info).cs = s.cs := rfl
@[simp] theorem State.raise_mem (k : FaultKind) (info : BitVec 32) : (s.raise k info).mem = s.mem := rfl
@[simp] theorem State.raise_codeLen (k : FaultKind) (info : BitVec 32) : (s.raise k info).codeLen = s.codeLen := rfl
@[simp] theorem State.raise_heapLen (k : FaultKind) (info : BitVec 32) : (s.raise k info).heapLen = s.heapLen := rfl
@[simp] theorem State.raise_sensor (k : FaultKind) (info : BitVec 32) : (s.raise k info).sensor = s.sensor := rfl
@[simp] theorem State.raise_actuator (k : FaultKind) (info : BitVec 32) : (s.raise k info).actuator = s.actuator := rfl
@[simp] theorem State.raise_outlog (k : FaultKind) (info : BitVec 32) : (s.raise k info).outlog = s.outlog := rfl
@[simp] theorem State.raise_instream (k : FaultKind) (info : BitVec 32) : (s.raise k info).instream = s.instream := rfl
@[simp] theorem State.raise_cfg (k : FaultKind) (info : BitVec 32) : (s.raise k info).cfg = s.cfg := rfl
@[simp] theorem State.raise_reg (k : FaultKind) (info : BitVec 32) (j : Reg) : (s.raise k info).reg j = s.reg j := rfl

/-! ### `State.setReg` -/

@[simp] theorem State.setReg_regs (i : Reg) (v : Byte) : (s.setReg i v).regs = s.regs.set i v := rfl
@[simp] theorem State.setReg_pc (i : Reg) (v : Byte) : (s.setReg i v).pc = s.pc := rfl
@[simp] theorem State.setReg_sr (i : Reg) (v : Byte) : (s.setReg i v).sr = s.sr := rfl
@[simp] theorem State.setReg_fp (i : Reg) (v : Byte) : (s.setReg i v).fp = s.fp := rfl
@[simp] theorem State.setReg_mode (i : Reg) (v : Byte) : (s.setReg i v).mode = s.mode := rfl
@[simp] theorem State.setReg_run (i : Reg) (v : Byte) : (s.setReg i v).run = s.run := rfl
@[simp] theorem State.setReg_fault (i : Reg) (v : Byte) : (s.setReg i v).fault = s.fault := rfl
@[simp] theorem State.setReg_vs (i : Reg) (v : Byte) : (s.setReg i v).vs = s.vs := rfl
@[simp] theorem State.setReg_cs (i : Reg) (v : Byte) : (s.setReg i v).cs = s.cs := rfl
@[simp] theorem State.setReg_mem (i : Reg) (v : Byte) : (s.setReg i v).mem = s.mem := rfl
@[simp] theorem State.setReg_codeLen (i : Reg) (v : Byte) : (s.setReg i v).codeLen = s.codeLen := rfl
@[simp] theorem State.setReg_heapLen (i : Reg) (v : Byte) : (s.setReg i v).heapLen = s.heapLen := rfl
@[simp] theorem State.setReg_sensor (i : Reg) (v : Byte) : (s.setReg i v).sensor = s.sensor := rfl
@[simp] theorem State.setReg_actuator (i : Reg) (v : Byte) : (s.setReg i v).actuator = s.actuator := rfl
@[simp] theorem State.setReg_outlog (i : Reg) (v : Byte) : (s.setReg i v).outlog = s.outlog := rfl
@[simp] theorem State.setReg_instream (i : Reg) (v : Byte) : (s.setReg i v).instream = s.instream := rfl
@[simp] theorem State.setReg_cfg (i : Reg) (v : Byte) : (s.setReg i v).cfg = s.cfg := rfl

/-! ### `State.setRegs` -/

@[simp] theorem State.setRegs_regs (f : Reg → Byte) : (s.setRegs f).regs = Vector.ofFn f := rfl
@[simp] theorem State.setRegs_pc (f : Reg → Byte) : (s.setRegs f).pc = s.pc := rfl
@[simp] theorem State.setRegs_sr (f : Reg → Byte) : (s.setRegs f).sr = s.sr := rfl
@[simp] theorem State.setRegs_fp (f : Reg → Byte) : (s.setRegs f).fp = s.fp := rfl
@[simp] theorem State.setRegs_mode (f : Reg → Byte) : (s.setRegs f).mode = s.mode := rfl
@[simp] theorem State.setRegs_run (f : Reg → Byte) : (s.setRegs f).run = s.run := rfl
@[simp] theorem State.setRegs_fault (f : Reg → Byte) : (s.setRegs f).fault = s.fault := rfl
@[simp] theorem State.setRegs_vs (f : Reg → Byte) : (s.setRegs f).vs = s.vs := rfl
@[simp] theorem State.setRegs_cs (f : Reg → Byte) : (s.setRegs f).cs = s.cs := rfl
@[simp] theorem State.setRegs_mem (f : Reg → Byte) : (s.setRegs f).mem = s.mem := rfl
@[simp] theorem State.setRegs_codeLen (f : Reg → Byte) : (s.setRegs f).codeLen = s.codeLen := rfl
@[simp] theorem State.setRegs_heapLen (f : Reg → Byte) : (s.setRegs f).heapLen = s.heapLen := rfl
@[simp] theorem State.setRegs_sensor (f : Reg → Byte) : (s.setRegs f).sensor = s.sensor := rfl
@[simp] theorem State.setRegs_actuator (f : Reg → Byte) : (s.setRegs f).actuator = s.actuator := rfl
@[simp] theorem State.setRegs_outlog (f : Reg → Byte) : (s.setRegs f).outlog = s.outlog := rfl
@[simp] theorem State.setRegs_instream (f : Reg → Byte) : (s.setRegs f).instream = s.instream := rfl
@[simp] theorem State.setRegs_cfg (f : Reg → Byte) : (s.setRegs f).cfg = s.cfg := rfl

/-! ### `State.setZNO` -/

@[simp] theorem State.setZNO_regs (b : Byte) (o : Bool) : (s.setZNO b o).regs = s.regs := rfl
@[simp] theorem State.setZNO_pc (b : Byte) (o : Bool) : (s.setZNO b o).pc = s.pc := rfl
@[simp] theorem State.setZNO_sr (b : Byte) (o : Bool) : (s.setZNO b o).sr = s.sr.setZNO b o := rfl
@[simp] theorem State.setZNO_fp (b : Byte) (o : Bool) : (s.setZNO b o).fp = s.fp := rfl
@[simp] theorem State.setZNO_mode (b : Byte) (o : Bool) : (s.setZNO b o).mode = s.mode := rfl
@[simp] theorem State.setZNO_run (b : Byte) (o : Bool) : (s.setZNO b o).run = s.run := rfl
@[simp] theorem State.setZNO_fault (b : Byte) (o : Bool) : (s.setZNO b o).fault = s.fault := rfl
@[simp] theorem State.setZNO_vs (b : Byte) (o : Bool) : (s.setZNO b o).vs = s.vs := rfl
@[simp] theorem State.setZNO_cs (b : Byte) (o : Bool) : (s.setZNO b o).cs = s.cs := rfl
@[simp] theorem State.setZNO_mem (b : Byte) (o : Bool) : (s.setZNO b o).mem = s.mem := rfl
@[simp] theorem State.setZNO_codeLen (b : Byte) (o : Bool) : (s.setZNO b o).codeLen = s.codeLen := rfl
@[simp] theorem State.setZNO_heapLen (b : Byte) (o : Bool) : (s.setZNO b o).heapLen = s.heapLen := rfl
@[simp] theorem State.setZNO_sensor (b : Byte) (o : Bool) : (s.setZNO b o).sensor = s.sensor := rfl
@[simp] theorem State.setZNO_actuator (b : Byte) (o : Bool) : (s.setZNO b o).actuator = s.actuator := rfl
@[simp] theorem State.setZNO_outlog (b : Byte) (o : Bool) : (s.setZNO b o).outlog = s.outlog := rfl
@[simp] theorem State.setZNO_instream (b : Byte) (o : Bool) : (s.setZNO b o).instream = s.instream := rfl
@[simp] theorem State.setZNO_cfg (b : Byte) (o : Bool) : (s.setZNO b o).cfg = s.cfg := rfl
@[simp] theorem State.setZNO_reg (b : Byte) (o : Bool) (j : Reg) : (s.setZNO b o).reg j = s.reg j := rfl

/-! ### `State.setE` -/

@[simp] theorem State.setE_regs (e : Bool) : (s.setE e).regs = s.regs := rfl
@[simp] theorem State.setE_pc (e : Bool) : (s.setE e).pc = s.pc := rfl
@[simp] theorem State.setE_sr (e : Bool) : (s.setE e).sr = { s.sr with e := e } := rfl
@[simp] theorem State.setE_fp (e : Bool) : (s.setE e).fp = s.fp := rfl
@[simp] theorem State.setE_mode (e : Bool) : (s.setE e).mode = s.mode := rfl
@[simp] theorem State.setE_run (e : Bool) : (s.setE e).run = s.run := rfl
@[simp] theorem State.setE_fault (e : Bool) : (s.setE e).fault = s.fault := rfl
@[simp] theorem State.setE_vs (e : Bool) : (s.setE e).vs = s.vs := rfl
@[simp] theorem State.setE_cs (e : Bool) : (s.setE e).cs = s.cs := rfl
@[simp] theorem State.setE_mem (e : Bool) : (s.setE e).mem = s.mem := rfl
@[simp] theorem State.setE_codeLen (e : Bool) : (s.setE e).codeLen = s.codeLen := rfl
@[simp] theorem State.setE_heapLen (e : Bool) : (s.setE e).heapLen = s.heapLen := rfl
@[simp] theorem State.setE_sensor (e : Bool) : (s.setE e).sensor = s.sensor := rfl
@[simp] theorem State.setE_actuator (e : Bool) : (s.setE e).actuator = s.actuator := rfl
@[simp] theorem State.setE_outlog (e : Bool) : (s.setE e).outlog = s.outlog := rfl
@[simp] theorem State.setE_instream (e : Bool) : (s.setE e).instream = s.instream := rfl
@[simp] theorem State.setE_cfg (e : Bool) : (s.setE e).cfg = s.cfg := rfl
@[simp] theorem State.setE_reg (e : Bool) (j : Reg) : (s.setE e).reg j = s.reg j := rfl

/-! ### `State.setResult` -/

@[simp] theorem State.setResult_regs (d : Reg) (r : Byte × Bool) : (s.setResult d r).regs = s.regs.set d r.1 := rfl
@[simp] theorem State.setResult_pc (d : Reg) (r : Byte × Bool) : (s.setResult d r).pc = s.pc := rfl
@[simp] theorem State.setResult_sr (d : Reg) (r : Byte × Bool) : (s.setResult d r).sr = s.sr.setZNO r.1 r.2 := rfl
@[simp] theorem State.setResult_fp (d : Reg) (r : Byte × Bool) : (s.setResult d r).fp = s.fp := rfl
@[simp] theorem State.setResult_mode (d : Reg) (r : Byte × Bool) : (s.setResult d r).mode = s.mode := rfl
@[simp] theorem State.setResult_run (d : Reg) (r : Byte × Bool) : (s.setResult d r).run = s.run := rfl
@[simp] theorem State.setResult_fault (d : Reg) (r : Byte × Bool) : (s.setResult d r).fault = s.fault := rfl
@[simp] theorem State.setResult_vs (d : Reg) (r : Byte × Bool) : (s.setResult d r).vs = s.vs := rfl
@[simp] theorem State.setResult_cs (d : Reg) (r : Byte × Bool) : (s.setResult d r).cs = s.cs := rfl
@[simp] theorem State.setResult_mem (d : Reg) (r : Byte × Bool) : (s.setResult d r).mem = s.mem := rfl
@[simp] theorem State.setResult_codeLen (d : Reg) (r : Byte × Bool) : (s.setResult d r).codeLen = s.codeLen := rfl
@[simp] theorem State.setResult_heapLen (d : Reg) (r : Byte × Bool) : (s.setResult d r).heapLen = s.heapLen := rfl
@[simp] theorem State.setResult_sensor (d : Reg) (r : Byte × Bool) : (s.setResult d r).sensor = s.sensor := rfl
@[simp] theorem State.setResult_actuator (d : Reg) (r : Byte × Bool) : (s.setResult d r).actuator = s.actuator := rfl
@[simp] theorem State.setResult_outlog (d : Reg) (r : Byte × Bool) : (s.setResult d r).outlog = s.outlog := rfl
@[simp] theorem State.setResult_instream (d : Reg) (r : Byte × Bool) : (s.setResult d r).instream = s.instream := rfl
@[simp] theorem State.setResult_cfg (d : Reg) (r : Byte × Bool) : (s.setResult d r).cfg = s.cfg := rfl

/-! ### `State.advance` -/

@[simp] theorem State.advance_regs (f : Format) : (s.advance f).regs = s.regs := rfl
@[simp] theorem State.advance_pc (f : Format) : (s.advance f).pc = s.pc + BitVec.ofNat 32 f.width := rfl
@[simp] theorem State.advance_sr (f : Format) : (s.advance f).sr = s.sr := rfl
@[simp] theorem State.advance_fp (f : Format) : (s.advance f).fp = s.fp := rfl
@[simp] theorem State.advance_mode (f : Format) : (s.advance f).mode = s.mode := rfl
@[simp] theorem State.advance_run (f : Format) : (s.advance f).run = s.run := rfl
@[simp] theorem State.advance_fault (f : Format) : (s.advance f).fault = s.fault := rfl
@[simp] theorem State.advance_vs (f : Format) : (s.advance f).vs = s.vs := rfl
@[simp] theorem State.advance_cs (f : Format) : (s.advance f).cs = s.cs := rfl
@[simp] theorem State.advance_mem (f : Format) : (s.advance f).mem = s.mem := rfl
@[simp] theorem State.advance_codeLen (f : Format) : (s.advance f).codeLen = s.codeLen := rfl
@[simp] theorem State.advance_heapLen (f : Format) : (s.advance f).heapLen = s.heapLen := rfl
@[simp] theorem State.advance_sensor (f : Format) : (s.advance f).sensor = s.sensor := rfl
@[simp] theorem State.advance_actuator (f : Format) : (s.advance f).actuator = s.actuator := rfl
@[simp] theorem State.advance_outlog (f : Format) : (s.advance f).outlog = s.outlog := rfl
@[simp] theorem State.advance_instream (f : Format) : (s.advance f).instream = s.instream := rfl
@[simp] theorem State.advance_cfg (f : Format) : (s.advance f).cfg = s.cfg := rfl
@[simp] theorem State.advance_reg (f : Format) (j : Reg) : (s.advance f).reg j = s.reg j := rfl

/-! ### `State.jump` -/

@[simp] theorem State.jump_regs (t : Addr) : (s.jump t).regs = s.regs := rfl
@[simp] theorem State.jump_pc (t : Addr) : (s.jump t).pc = t := rfl
@[simp] theorem State.jump_sr (t : Addr) : (s.jump t).sr = s.sr := rfl
@[simp] theorem State.jump_fp (t : Addr) : (s.jump t).fp = s.fp := rfl
@[simp] theorem State.jump_mode (t : Addr) : (s.jump t).mode = s.mode := rfl
@[simp] theorem State.jump_run (t : Addr) : (s.jump t).run = s.run := rfl
@[simp] theorem State.jump_fault (t : Addr) : (s.jump t).fault = s.fault := rfl
@[simp] theorem State.jump_vs (t : Addr) : (s.jump t).vs = s.vs := rfl
@[simp] theorem State.jump_cs (t : Addr) : (s.jump t).cs = s.cs := rfl
@[simp] theorem State.jump_mem (t : Addr) : (s.jump t).mem = s.mem := rfl
@[simp] theorem State.jump_codeLen (t : Addr) : (s.jump t).codeLen = s.codeLen := rfl
@[simp] theorem State.jump_heapLen (t : Addr) : (s.jump t).heapLen = s.heapLen := rfl
@[simp] theorem State.jump_sensor (t : Addr) : (s.jump t).sensor = s.sensor := rfl
@[simp] theorem State.jump_actuator (t : Addr) : (s.jump t).actuator = s.actuator := rfl
@[simp] theorem State.jump_outlog (t : Addr) : (s.jump t).outlog = s.outlog := rfl
@[simp] theorem State.jump_instream (t : Addr) : (s.jump t).instream = s.instream := rfl
@[simp] theorem State.jump_cfg (t : Addr) : (s.jump t).cfg = s.cfg := rfl
@[simp] theorem State.jump_reg (t : Addr) (j : Reg) : (s.jump t).reg j = s.reg j := rfl

/-! ### `State.storeBytes` -/

@[simp] theorem State.storeBytes_regs (a : Addr) (v : List Byte) : (s.storeBytes a v).regs = s.regs := rfl
@[simp] theorem State.storeBytes_pc (a : Addr) (v : List Byte) : (s.storeBytes a v).pc = s.pc := rfl
@[simp] theorem State.storeBytes_sr (a : Addr) (v : List Byte) : (s.storeBytes a v).sr = s.sr := rfl
@[simp] theorem State.storeBytes_fp (a : Addr) (v : List Byte) : (s.storeBytes a v).fp = s.fp := rfl
@[simp] theorem State.storeBytes_mode (a : Addr) (v : List Byte) : (s.storeBytes a v).mode = s.mode := rfl
@[simp] theorem State.storeBytes_run (a : Addr) (v : List Byte) : (s.storeBytes a v).run = s.run := rfl
@[simp] theorem State.storeBytes_fault (a : Addr) (v : List Byte) : (s.storeBytes a v).fault = s.fault := rfl
@[simp] theorem State.storeBytes_vs (a : Addr) (v : List Byte) : (s.storeBytes a v).vs = s.vs := rfl
@[simp] theorem State.storeBytes_cs (a : Addr) (v : List Byte) : (s.storeBytes a v).cs = s.cs := rfl
@[simp] theorem State.storeBytes_mem (a : Addr) (v : List Byte) : (s.storeBytes a v).mem = s.mem.writeBytes a.toNat v := rfl
@[simp] theorem State.storeBytes_codeLen (a : Addr) (v : List Byte) : (s.storeBytes a v).codeLen = s.codeLen := rfl
@[simp] theorem State.storeBytes_heapLen (a : Addr) (v : List Byte) : (s.storeBytes a v).heapLen = s.heapLen := rfl
@[simp] theorem State.storeBytes_sensor (a : Addr) (v : List Byte) : (s.storeBytes a v).sensor = s.sensor := rfl
@[simp] theorem State.storeBytes_actuator (a : Addr) (v : List Byte) : (s.storeBytes a v).actuator = s.actuator := rfl
@[simp] theorem State.storeBytes_outlog (a : Addr) (v : List Byte) : (s.storeBytes a v).outlog = s.outlog := rfl
@[simp] theorem State.storeBytes_instream (a : Addr) (v : List Byte) : (s.storeBytes a v).instream = s.instream := rfl
@[simp] theorem State.storeBytes_cfg (a : Addr) (v : List Byte) : (s.storeBytes a v).cfg = s.cfg := rfl
@[simp] theorem State.storeBytes_reg (a : Addr) (v : List Byte) (j : Reg) : (s.storeBytes a v).reg j = s.reg j := rfl

/-! ### Reading a register after a write -/

theorem State.setReg_reg (i : Reg) (v : Byte) (j : Reg) :
    (s.setReg i v).reg j = if j = i then v else s.reg j := by
  simp only [State.reg, State.setReg, Vector.get_eq_getElem, Vector.getElem_set, Fin.ext_iff, eq_comm]

@[simp] theorem State.setReg_reg_self (i : Reg) (v : Byte) : (s.setReg i v).reg i = v := by
  simp [State.setReg_reg]

@[simp] theorem State.setReg_reg_ne (i : Reg) (v : Byte) {j : Reg} (h : j ≠ i) :
    (s.setReg i v).reg j = s.reg j := by
  simp [State.setReg_reg, h]

@[simp] theorem State.setRegs_reg (f : Reg → Byte) (j : Reg) : (s.setRegs f).reg j = f j := by
  simp [State.reg, State.setRegs, Vector.get_eq_getElem]

theorem State.setResult_reg (d : Reg) (r : Byte × Bool) (j : Reg) :
    (s.setResult d r).reg j = if j = d then r.1 else s.reg j := s.setReg_reg d r.1 j

@[simp] theorem State.setResult_reg_self (d : Reg) (r : Byte × Bool) : (s.setResult d r).reg d = r.1 := by
  simp [State.setResult_reg]

@[simp] theorem State.setResult_reg_ne (d : Reg) (r : Byte × Bool) {j : Reg} (h : j ≠ d) :
    (s.setResult d r).reg j = s.reg j := by
  simp [State.setResult_reg, h]

/-- Two states with the same registers have the same register file. -/
theorem State.regs_ext {s t : State} (h : ∀ j, s.reg j = t.reg j) : s.regs = t.regs := by
  apply Vector.ext
  intro i hi
  simpa [State.reg, Vector.get_eq_getElem] using h ⟨i, hi⟩

/-! ### Flags -/

@[simp] theorem SR.setZNO_z (f : SR) (b : Byte) (o : Bool) : (f.setZNO b o).z = decide (rho b = -8) := rfl
@[simp] theorem SR.setZNO_n (f : SR) (b : Byte) (o : Bool) : (f.setZNO b o).n = decide (rho b < 0) := rfl
@[simp] theorem SR.setZNO_o (f : SR) (b : Byte) (o : Bool) : (f.setZNO b o).o = o := rfl
@[simp] theorem SR.setZNO_c (f : SR) (b : Byte) (o : Bool) : (f.setZNO b o).c = f.c := rfl
@[simp] theorem SR.setZNO_e (f : SR) (b : Byte) (o : Bool) : (f.setZNO b o).e = f.e := rfl

/-! ### Conditional updates -/

/-- A conditional jump writes `pc` and nothing else. -/
theorem State.jumpIf_eq (c : Bool) (t : Addr) :
    s.jumpIf c t = { s with pc := if c then t else s.pc + 4 } := by
  cases c <;> rfl

/-- Growing the heap changes memory and `HEAP_LEN` only. -/
theorem State.growHeap_eq (len : Nat) :
    s.growHeap len = { s with mem := (s.growHeap len).mem, heapLen := max s.heapLen len } := by
  unfold State.growHeap
  split
  · rw [Nat.max_eq_right (by omega)]
  · rw [Nat.max_eq_left (by omega)]

/-- What clearing a fault gives. -/
theorem State.clearFault_of_faulted (h : s.run = .faulted) :
    s.clearFault = { s with run := .running, fault := ⟨0, 0⟩ } := by
  simp [State.clearFault, h]

theorem State.clearFault_of_not_faulted (h : s.run ≠ .faulted) : s.clearFault = s := by
  simp [State.clearFault, h]

end Sys2Proof.Machine
end

