-- ==== Sys2Proof/Laws/Ops.lean ====
section
/-! SUPPORT. For each shared operation, once, everything it can do. -/

namespace Sys2Proof.Machine

/-! ### Addresses -/

theorem shortAddress_toNat (seg : BitVec 4) (off : BitVec 16) :
    (shortAddress seg off).toNat = seg.toNat * 2 ^ 28 + off.toNat := by
  have h0 : (0 : BitVec 12).toNat = 0 := rfl
  simp only [shortAddress, append_toNat, h0]; omega

@[simp] theorem offsetOf_shortAddress (seg : BitVec 4) (off : BitVec 16) :
    offsetOf (shortAddress seg off) = off.toNat := by
  have := off.isLt
  simp only [offsetOf, shortAddress_toNat]; omega

theorem shortAddress_seg (seg : BitVec 4) (off : BitVec 16) :
    (shortAddress seg off).toNat / 2 ^ 28 = seg.toNat := by
  have := off.isLt
  rw [shortAddress_toNat]; omega

theorem stateAddress_toNat (k : BitVec 24) : (stateAddress k).toNat = heapBase + 16 * k.toNat := by
  have := k.isLt
  have h1 : (0x10000000 : Addr).toNat = 0x10000000 := rfl
  have h2 : (16 : Addr).toNat = 16 := rfl
  simp only [stateAddress, heapBase, BitVec.toNat_add, BitVec.toNat_mul, BitVec.toNat_setWidth, h1, h2]
  omega

@[simp] theorem offsetOf_stateAddress (k : BitVec 24) : offsetOf (stateAddress k) = 16 * k.toNat := by
  have := k.isLt
  simp only [offsetOf, stateAddress_toNat, heapBase]; omega

@[simp] theorem segmentOf_stateAddress (k : BitVec 24) : segmentOf (stateAddress k) = some .stateHeap := by
  have := k.isLt
  have h : (stateAddress k).toNat / 2 ^ 28 = 1 := by rw [stateAddress_toNat, heapBase]; omega
  simp only [segmentOf, h]

/-- Which selector a segment has. -/
theorem segmentOf_eq_some (a : Addr) (g : Segment) (h : segmentOf a = some g) :
    a.toNat / 2 ^ 28 = match g with
      | .code => 0 | .stateHeap => 1 | .callStack => 2 | .transformTable => 3 | .ioMapped => 15 := by
  unfold segmentOf at h
  split at h <;> simp_all <;> (subst h; simp_all)

/-- An address is its segment's base and its offset. -/
theorem toNat_of_segment (a : Addr) :
    a.toNat = a.toNat / 2 ^ 28 * 2 ^ 28 + offsetOf a := by
  unfold offsetOf; omega

/-! ### Ending an instruction that may fault -/

/-- An attempt answers a next state: the effect, or the fault and nothing else. -/
theorem State.attempt_cases {α : Type} (s t : State) (r : Except Raised α) (f : α → State)
    (h : s.attempt r f = .next t) :
    (∃ v, r = .ok v ∧ t = f v) ∨ (∃ e, r = .error e ∧ t = s.raise e.kind e.info) := by
  cases r with
  | ok v => exact .inl ⟨v, rfl, by simpa [State.attempt] using h.symm⟩
  | error e => exact .inr ⟨e, rfl, by simpa [State.attempt] using h.symm⟩

/-- A failed decode raises one fault of code 1, 9 or 10 and changes nothing else. -/
theorem State.raiseDecode_cases (s : State) (e : DecodeError) :
    ∃ k info, s.raiseDecode e = s.raise k info ∧
      (k = .addressOutOfBounds ∨ k = .illegalOpcode ∨ k = .illegalOperand) := by
  cases e <;> exact ⟨_, _, rfl, by simp⟩

/-! ### Fetch -/

/-- A byte can be fetched exactly inside the loaded code. -/
theorem State.fetchByte_eq_some (s : State) (a : Addr) (b : Byte) :
    s.fetchByte a = some b ↔
      (segmentOf a = some .code ∧ offsetOf a < s.codeLen) ∧ s.mem.read a.toNat = b := by
  unfold State.fetchByte
  split <;> simp_all

/-- The window ends at the first byte that cannot be fetched. -/
theorem State.fetchWindow_succ_some (s : State) (a : Addr) (n : Nat) (b : Byte) (h : s.fetchByte a = some b) :
    s.fetchWindow a (n + 1) = b :: s.fetchWindow (a + 1) n := by
  simp only [State.fetchWindow, h]

theorem State.fetchWindow_succ_none (s : State) (a : Addr) (n : Nat) (h : s.fetchByte a = none) :
    s.fetchWindow a (n + 1) = [] := by
  simp only [State.fetchWindow, h]

theorem State.fetchWindow_length_le (s : State) (a : Addr) (n : Nat) : (s.fetchWindow a n).length ≤ n := by
  induction n generalizing a with
  | zero => simp [State.fetchWindow]
  | succ n ih =>
    cases h : s.fetchByte a with
    | none => simp [State.fetchWindow_succ_none s a n h]
    | some b => simp only [State.fetchWindow_succ_some s a n b h, List.length_cons]; have := ih (a + 1); omega

/-- Bytes that can all be fetched begin the window. -/
theorem State.fetchWindow_of_bytes (s : State) (a : Addr) (bs : List Byte) (n : Nat) (hn : bs.length ≤ n)
    (h : ∀ k (hk : k < bs.length), s.fetchByte (a + BitVec.ofNat 32 k) = some bs[k]) :
    ∃ rest, s.fetchWindow a n = bs ++ rest := by
  induction bs generalizing a n with
  | nil => exact ⟨_, rfl⟩
  | cons b bs ih =>
    obtain ⟨m, rfl⟩ : ∃ m, n = m + 1 := ⟨n - 1, by simp at hn; omega⟩
    have h0 := h 0 (by simp)
    simp only [BitVec.add_zero, List.getElem_cons_zero] at h0
    obtain ⟨rest, hr⟩ := ih (a + 1) m (by simp at hn; omega) fun k hk => by
      have := h (k + 1) (by simp; omega)
      simp only [List.getElem_cons_succ] at this
      rw [← this]; congr 1
      apply BitVec.eq_of_toNat_eq; simp [BitVec.toNat_add]; omega
    exact ⟨rest, by rw [State.fetchWindow_succ_some s a m b h0, hr]; rfl⟩

/-! ### Data accesses -/

/-- A data read that succeeds lies inside the extent of a readable segment and gives its bytes. -/
theorem State.memRead_ok (s : State) (a : Addr) (n : Nat) (bs : List Byte) (h : s.memRead a n = .ok bs) :
    ∃ g ext, segmentOf a = some g ∧ s.readExtent g = some ext ∧ offsetOf a + n ≤ ext ∧
      bs = s.mem.readBytes a.toNat n := by
  unfold State.memRead at h
  cases hg : segmentOf a with
  | none => simp [hg] at h
  | some g =>
    cases he : s.readExtent g with
    | none => simp [hg, he] at h
    | some ext =>
      simp only [hg, he] at h
      split at h
      · simp at h
      · exact ⟨g, ext, rfl, he, by omega, by simpa using h.symm⟩

/-- A data read that fails raises `AddressOutOfBounds` or `InvalidSegment` with the address. -/
theorem State.memRead_error (s : State) (a : Addr) (n : Nat) (e : Raised) (h : s.memRead a n = .error e) :
    e = ⟨.addressOutOfBounds, a⟩ ∨ e = ⟨.invalidSegment, a⟩ := by
  unfold State.memRead at h
  cases hg : segmentOf a with
  | none => simp only [hg, Except.error.injEq] at h; exact .inl h.symm
  | some g =>
    cases he : s.readExtent g with
    | none => simp only [hg, he, Except.error.injEq] at h; exact .inr h.symm
    | some ext =>
      simp only [hg, he] at h
      split at h
      · simp only [Except.error.injEq] at h; exact .inl h.symm
      · simp at h

/-- A data write that succeeds is to the StateHeap, below the capacity, grown as far as needed; or to the ports. -/
theorem State.memWrite_ok (s t : State) (a : Addr) (vs : List Byte) (hv : vs ≠ [])
    (h : s.memWrite a vs = .ok t) :
    (segmentOf a = some .stateHeap ∧ (offsetOf a + vs.length - 1) / 16 < s.cfg.heapCap ∧
      t = (s.growHeap ((offsetOf a + vs.length - 1) / 16 + 1)).storeBytes a vs) ∨
    (segmentOf a = some .ioMapped ∧ offsetOf a + vs.length ≤ s.cfg.ioPorts ∧ t = s.storeBytes a vs) := by
  have hl : 0 < vs.length := List.length_pos_iff.2 hv
  unfold State.memWrite at h
  cases hg : segmentOf a with
  | none => simp [hg] at h
  | some g =>
    cases g with
    | code => simp [hg] at h
    | callStack => simp [hg] at h
    | transformTable =>
      have ht : Config.ttSize < offsetOf a + vs.length := by unfold Config.ttSize; omega
      simp [hg, ht] at h
    | stateHeap =>
      simp only [hg] at h
      split at h
      · simp at h
      · exact .inl ⟨rfl, by omega, by simpa using h.symm⟩
    | ioMapped =>
      simp only [hg] at h
      split at h
      · simp at h
      · exact .inr ⟨rfl, by omega, by simpa using h.symm⟩

/-- A data write that fails raises one of three faults with the address. -/
theorem State.memWrite_error (s : State) (a : Addr) (vs : List Byte) (e : Raised)
    (h : s.memWrite a vs = .error e) :
    e = ⟨.addressOutOfBounds, a⟩ ∨ e = ⟨.invalidSegment, a⟩ ∨ e = ⟨.heapOverflow, a⟩ := by
  unfold State.memWrite at h
  cases hg : segmentOf a with
  | none => simp only [hg, Except.error.injEq] at h; exact .inl h.symm
  | some g =>
    cases g <;> simp only [hg] at h
    case code => exact .inr (.inl (by simpa using h.symm))
    case callStack => exact .inr (.inl (by simpa using h.symm))
    all_goals
      split at h
      · simp only [Except.error.injEq] at h; subst h; simp
      · simp at h

/-- What growing the heap leaves in memory. -/
theorem State.growHeap_read (s : State) (len b : Nat) :
    (s.growHeap len).mem.read b =
      if heapBase + 16 * s.heapLen ≤ b ∧ b < heapBase + 16 * len then 0 else s.mem.read b := by
  unfold State.growHeap
  split
  · exact Memory.read_clear _ _ _ _
  · rw [if_neg (by omega)]

theorem State.growHeap_wf (s : State) (len : Nat) (h : Memory.wf s.mem) : Memory.wf (s.growHeap len).mem := by
  unfold State.growHeap
  split
  · exact Memory.clear_wf _ _ _ h
  · exact h

/-! ### One step -/

/-- Once, everything a step can do: nothing outside `RUNNING`; else a decode fault, or the decoded instruction. -/
theorem step_cases (s : State) (o : Host.Outcome State Fault Refusal) (h : step s = o) :
    (s.run ≠ .running ∧ o = .next s) ∨
    (s.run = .running ∧ ∃ e, s.fetchInstr = .error e ∧ o = .next (s.raiseDecode e)) ∨
    (s.run = .running ∧ ∃ i, s.fetchInstr = .ok i ∧ o = exec i s) := by
  unfold step at h
  cases hr : s.run with
  | running =>
    simp only [hr] at h
    cases hf : s.fetchInstr with
    | error e => simp only [hf] at h; exact .inr (.inl ⟨rfl, e, rfl, h.symm⟩)
    | ok i => simp only [hf] at h; exact .inr (.inr ⟨rfl, i, rfl, h.symm⟩)
  | yielded => simp only [hr] at h; exact .inl ⟨by simp, h.symm⟩
  | halted => simp only [hr] at h; exact .inl ⟨by simp, h.symm⟩
  | faulted => simp only [hr] at h; exact .inl ⟨by simp, h.symm⟩

end Sys2Proof.Machine
end

