-- ==== Sys2Proof/Laws/PerInstr.lean ====
section
/-! SUPPORT. Statements about every instruction as syntax, one lemma per constructor of Instr. -/

namespace Sys2Proof.Laws

/-- The encoder and the decoder use the same `format(op)` (30_encoding.md R88): the opcode byte of the instruction is
assigned, and its encoding has that format's width. -/
def EncodeFormat.Statement (i : Instr) : Prop :=
  ∃ f, formatOf i.opcode = some f ∧ (encode i).length = f.width

theorem EncodeFormat.nop : EncodeFormat.Statement (.nop) := ⟨_, rfl, rfl⟩
theorem EncodeFormat.hlt : EncodeFormat.Statement (.hlt) := ⟨_, rfl, rfl⟩
theorem EncodeFormat.ret : EncodeFormat.Statement (.ret) := ⟨_, rfl, rfl⟩
theorem EncodeFormat.yield : EncodeFormat.Statement (.yield) := ⟨_, rfl, rfl⟩
theorem EncodeFormat.jmp (target : BitVec 24) : EncodeFormat.Statement (.jmp target) := ⟨_, rfl, rfl⟩
theorem EncodeFormat.jz (target : BitVec 24) : EncodeFormat.Statement (.jz target) := ⟨_, rfl, rfl⟩
theorem EncodeFormat.jn (target : BitVec 24) : EncodeFormat.Statement (.jn target) := ⟨_, rfl, rfl⟩
theorem EncodeFormat.jc (target : BitVec 24) : EncodeFormat.Statement (.jc target) := ⟨_, rfl, rfl⟩
theorem EncodeFormat.jo (target : BitVec 24) : EncodeFormat.Statement (.jo target) := ⟨_, rfl, rfl⟩
theorem EncodeFormat.call (target : BitVec 24) : EncodeFormat.Statement (.call target) := ⟨_, rfl, rfl⟩
theorem EncodeFormat.loop (c : Reg) (target : BitVec 16) : EncodeFormat.Statement (.loop c target) := ⟨_, rfl, rfl⟩
theorem EncodeFormat.mov (d s : Reg) : EncodeFormat.Statement (.mov d s) := ⟨_, rfl, rfl⟩
theorem EncodeFormat.movi (d : Reg) (v : Byte) : EncodeFormat.Statement (.movi d v) := ⟨_, rfl, rfl⟩
theorem EncodeFormat.load (seg : BitVec 4) (d : Reg) (off : BitVec 16) : EncodeFormat.Statement (.load seg d off) := ⟨_, rfl, rfl⟩
theorem EncodeFormat.store (seg : BitVec 4) (s : Reg) (off : BitVec 16) : EncodeFormat.Statement (.store seg s off) := ⟨_, rfl, rfl⟩
theorem EncodeFormat.push (s : Reg) : EncodeFormat.Statement (.push s) := ⟨_, rfl, rfl⟩
theorem EncodeFormat.pop (d : Reg) : EncodeFormat.Statement (.pop d) := ⟨_, rfl, rfl⟩
theorem EncodeFormat.lstate (k : BitVec 24) : EncodeFormat.Statement (.lstate k) := ⟨_, rfl, rfl⟩
theorem EncodeFormat.sstate (k : BitVec 24) : EncodeFormat.Statement (.sstate k) := ⟨_, rfl, rfl⟩
theorem EncodeFormat.mul (d s : Reg) : EncodeFormat.Statement (.mul d s) := ⟨_, rfl, rfl⟩
theorem EncodeFormat.div (d s : Reg) : EncodeFormat.Statement (.div d s) := ⟨_, rfl, rfl⟩
theorem EncodeFormat.pow (d : Reg) (n : Byte) : EncodeFormat.Statement (.pow d n) := ⟨_, rfl, rfl⟩
theorem EncodeFormat.root (d : Reg) (n : Byte) : EncodeFormat.Statement (.root d n) := ⟨_, rfl, rfl⟩
theorem EncodeFormat.inv (d : Reg) : EncodeFormat.Statement (.inv d) := ⟨_, rfl, rfl⟩
theorem EncodeFormat.conj (d : Reg) : EncodeFormat.Statement (.conj d) := ⟨_, rfl, rfl⟩
theorem EncodeFormat.add (d s : Reg) : EncodeFormat.Statement (.add d s) := ⟨_, rfl, rfl⟩
theorem EncodeFormat.sub (d s : Reg) : EncodeFormat.Statement (.sub d s) := ⟨_, rfl, rfl⟩
theorem EncodeFormat.mag (d : Reg) : EncodeFormat.Statement (.mag d) := ⟨_, rfl, rfl⟩
theorem EncodeFormat.phase (d : Reg) : EncodeFormat.Statement (.phase d) := ⟨_, rfl, rfl⟩
theorem EncodeFormat.scale (d : Reg) (delta : Byte) : EncodeFormat.Statement (.scale d delta) := ⟨_, rfl, rfl⟩
theorem EncodeFormat.rotate (d : Reg) (delta : Byte) : EncodeFormat.Statement (.rotate d delta) := ⟨_, rfl, rfl⟩
theorem EncodeFormat.xorl (d : Reg) : EncodeFormat.Statement (.xorl d) := ⟨_, rfl, rfl⟩
theorem EncodeFormat.andl (d : Reg) : EncodeFormat.Statement (.andl d) := ⟨_, rfl, rfl⟩
theorem EncodeFormat.orl (d : Reg) : EncodeFormat.Statement (.orl d) := ⟨_, rfl, rfl⟩
theorem EncodeFormat.rotl (n : Reg) : EncodeFormat.Statement (.rotl n) := ⟨_, rfl, rfl⟩
theorem EncodeFormat.fold (m : FoldMode) : EncodeFormat.Statement (.fold m) := ⟨_, rfl, rfl⟩
theorem EncodeFormat.spread (s : Reg) (lo hi : Reg) : EncodeFormat.Statement (.spread s lo hi) := ⟨_, rfl, rfl⟩
theorem EncodeFormat.gather (d : Reg) (lo hi : Reg) : EncodeFormat.Statement (.gather d lo hi) := ⟨_, rfl, rfl⟩
theorem EncodeFormat.trans : EncodeFormat.Statement (.trans) := ⟨_, rfl, rfl⟩
theorem EncodeFormat.pipe : EncodeFormat.Statement (.pipe) := ⟨_, rfl, rfl⟩
theorem EncodeFormat.lerp : EncodeFormat.Statement (.lerp) := ⟨_, rfl, rfl⟩
theorem EncodeFormat.slerp : EncodeFormat.Statement (.slerp) := ⟨_, rfl, rfl⟩
theorem EncodeFormat.grad : EncodeFormat.Statement (.grad) := ⟨_, rfl, rfl⟩
theorem EncodeFormat.descent : EncodeFormat.Statement (.descent) := ⟨_, rfl, rfl⟩
theorem EncodeFormat.emerge : EncodeFormat.Statement (.emerge) := ⟨_, rfl, rfl⟩
theorem EncodeFormat.collapse : EncodeFormat.Statement (.collapse) := ⟨_, rfl, rfl⟩
theorem EncodeFormat.promote : EncodeFormat.Statement (.promote) := ⟨_, rfl, rfl⟩
theorem EncodeFormat.demote : EncodeFormat.Statement (.demote) := ⟨_, rfl, rfl⟩
theorem EncodeFormat.sense (d : Reg) (ix : Byte) : EncodeFormat.Statement (.sense d ix) := ⟨_, rfl, rfl⟩
theorem EncodeFormat.act (ix : Byte) (s : Reg) : EncodeFormat.Statement (.act ix s) := ⟨_, rfl, rfl⟩
theorem EncodeFormat.sync : EncodeFormat.Statement (.sync) := ⟨_, rfl, rfl⟩
theorem EncodeFormat.broadcast : EncodeFormat.Statement (.broadcast) := ⟨_, rfl, rfl⟩
theorem EncodeFormat.receive : EncodeFormat.Statement (.receive) := ⟨_, rfl, rfl⟩
theorem EncodeFormat.entangle : EncodeFormat.Statement (.entangle) := ⟨_, rfl, rfl⟩
theorem EncodeFormat.hintCpu : EncodeFormat.Statement (.hintCpu) := ⟨_, rfl, rfl⟩
theorem EncodeFormat.hintGpu : EncodeFormat.Statement (.hintGpu) := ⟨_, rfl, rfl⟩
theorem EncodeFormat.hintNpu : EncodeFormat.Statement (.hintNpu) := ⟨_, rfl, rfl⟩
theorem EncodeFormat.hintFpga : EncodeFormat.Statement (.hintFpga) := ⟨_, rfl, rfl⟩
theorem EncodeFormat.hintDsp : EncodeFormat.Statement (.hintDsp) := ⟨_, rfl, rfl⟩
theorem EncodeFormat.batchBegin : EncodeFormat.Statement (.batchBegin) := ⟨_, rfl, rfl⟩
theorem EncodeFormat.batchEnd : EncodeFormat.Statement (.batchEnd) := ⟨_, rfl, rfl⟩
theorem EncodeFormat.prefetch : EncodeFormat.Statement (.prefetch) := ⟨_, rfl, rfl⟩
theorem EncodeFormat.fence : EncodeFormat.Statement (.fence) := ⟨_, rfl, rfl⟩

end Sys2Proof.Laws
end

