-- ==== Sys2Proof/Machine/Assembly.lean ====
section
/-! DEFINITION. The assembler text of an instruction in the syntax of 30_encoding.md R89. Operand bytes that are
not examined have no text (log 8). No step reads it. -/

namespace Sys2Proof.Machine

/-- One hexadecimal digit. -/
def hexDigit (n : Nat) : String :=
  ["0", "1", "2", "3", "4", "5", "6", "7", "8", "9", "A", "B", "C", "D", "E", "F"].getD (n % 16) "0"

/-- `digits` hexadecimal digits of `n`, most significant first. -/
def hexDigits : Nat → Nat → String
  | 0, _ => ""
  | k + 1, n => hexDigits k (n / 16) ++ hexDigit n

/-- A register, `R0` to `RF` (R89; its alias is the layer name `L0` to `LF`, 10_state.md R11). -/
def regText (r : Reg) : String := "R" ++ hexDigit r.val

/-- A hexadecimal immediate of `digits` digits. -/
def hexText (digits n : Nat) : String := "0x" ++ hexDigits digits n

/-- A signed decimal immediate. -/
def signedText (b : Byte) : String :=
  if b.toNat < 128 then toString b.toNat else "-" ++ toString (256 - b.toNat)

/-- A short address `[seg:off]`. -/
def addressText (seg : BitVec 4) (off : BitVec 16) : String :=
  "[" ++ hexDigit seg.toNat ++ ":" ++ hexText 4 off.toNat ++ "]"

/-- A layer range `lo..hi`. -/
def rangeText (lo hi : Reg) : String := hexDigit lo.val ++ ".." ++ hexDigit hi.val

/-- A mnemonic and its operands in the order of R83's "ops" column. -/
def line (mnemonic : String) (operands : List String) : String :=
  match operands with
  | [] => mnemonic
  | o :: os => os.foldl (fun acc x => acc ++ ", " ++ x) (mnemonic ++ " " ++ o)

/-- The assembler line of an instruction (R89). -/
def assembly : Instr → String
  | .nop => "NOP"
  | .hlt => "HLT"
  | .ret => "RET"
  | .yield => "YIELD"
  | .jmp t => line "JMP" [hexText 6 t.toNat]
  | .jz t => line "JZ" [hexText 6 t.toNat]
  | .jn t => line "JN" [hexText 6 t.toNat]
  | .jc t => line "JC" [hexText 6 t.toNat]
  | .jo t => line "JO" [hexText 6 t.toNat]
  | .call t => line "CALL" [hexText 6 t.toNat]
  | .loop c t => line "LOOP" [regText c, hexText 4 t.toNat]
  | .mov d s => line "MOV" [regText d, regText s]
  | .movi d v => line "MOVI" [regText d, hexText 2 v.toNat]
  | .load g d o => line "LOAD" [regText d, addressText g o]
  | .store g s o => line "STORE" [addressText g o, regText s]
  | .push s => line "PUSH" [regText s]
  | .pop d => line "POP" [regText d]
  | .lstate k => line "LSTATE" [hexText 6 k.toNat]
  | .sstate k => line "SSTATE" [hexText 6 k.toNat]
  | .mul d s => line "MUL" [regText d, regText s]
  | .div d s => line "DIV" [regText d, regText s]
  | .pow d n => line "POW" [regText d, toString n.toNat]
  | .root d n => line "ROOT" [regText d, toString n.toNat]
  | .inv d => line "INV" [regText d]
  | .conj d => line "CONJ" [regText d]
  | .add d s => line "ADD" [regText d, regText s]
  | .sub d s => line "SUB" [regText d, regText s]
  | .mag d => line "MAG" [regText d]
  | .phase d => line "PHASE" [regText d]
  | .scale d v => line "SCALE" [regText d, signedText v]
  | .rotate d v => line "ROTATE" [regText d, signedText v]
  | .xorl d => line "XORL" [regText d]
  | .andl d => line "ANDL" [regText d]
  | .orl d => line "ORL" [regText d]
  | .rotl n => line "ROTL" [toString n.val]
  | .fold m => line "FOLD" [toString m.byte.toNat]
  | .spread s lo hi => line "SPREAD" [regText s, rangeText lo hi]
  | .gather d lo hi => line "GATHER" [regText d, rangeText lo hi]
  | .trans => "TRANS"
  | .pipe => "PIPE"
  | .lerp => "LERP"
  | .slerp => "SLERP"
  | .grad => "GRAD"
  | .descent => "DESCENT"
  | .emerge => "EMERGE"
  | .collapse => "COLLAPSE"
  | .promote => "PROMOTE"
  | .demote => "DEMOTE"
  | .sense d ix => line "SENSE" [regText d, toString ix.toNat]
  | .act ix s => line "ACT" [toString ix.toNat, regText s]
  | .sync => "SYNC"
  | .broadcast => "BROADCAST"
  | .receive => "RECEIVE"
  | .entangle => "ENTANGLE"
  | .hintCpu => "HINT.CPU"
  | .hintGpu => "HINT.GPU"
  | .hintNpu => "HINT.NPU"
  | .hintFpga => "HINT.FPGA"
  | .hintDsp => "HINT.DSP"
  | .batchBegin => "BATCH.BEGIN"
  | .batchEnd => "BATCH.END"
  | .prefetch => "PREFETCH"
  | .fence => "FENCE"

end Sys2Proof.Machine
end

