-- ==== Sys2Proof/Tests/Slice0.lean ====
section
/-! SUPPORT. Tests on fixed values. Expected values are those of spec/95_test_vectors.md, or are worked by hand from
the rule a comment names; then, for every statement with hypotheses, a state and operands that meet them. -/

namespace Sys2Proof.Tests

open Sys2Proof Sys2Proof.Machine

/-! ### Small states -/

/-- A register file from its first bytes. -/
def file (l : List Byte) : Vector Byte 16 := Vector.ofFn fun i => l.getD i.val 0

/-- The register file `S` of spec/95_test_vectors.md. -/
def fileS : List Byte :=
  [0xA3, 0x91, 0x80, 0x00, 0x7F, 0x84, 0xC2, 0x15, 0x88, 0x6D, 0xF0, 0x0F, 0x33, 0xB4, 0x5A, 0xE9]

/-- The core after a load of code, with registers and flags written by the host. -/
def loaded (code : List Byte) (regs : List Byte := []) (sr : Byte := 0x00) : State :=
  { State.reset with
    mem := Memory.ofBytes codeBase code, codeLen := code.length, regs := file regs, sr := SR.ofByte sr }

/-- The same with heap states. -/
def coreHeap (code data regs : List Byte) (sr : Byte := 0x00) : State :=
  { loaded code regs sr with
    mem := Memory.ofBytes codeBase code ++ Memory.ofBytes heapBase data, heapLen := dataStates data }

/-- The state after one step. -/
def stepOf (s : State) : State :=
  match step s with
  | .next t => t
  | _ => s

/-- Registers, flags and `pc` after one step. -/
def result (s : State) : List Byte × Byte × Nat :=
  let t := stepOf s
  (t.regs.toList, readSR t, t.pc.toNat)

/-- `R0` and the flags after one step of an instruction on `R0` and `R1`. -/
def after (code : List Byte) (r0 r1 : Byte) : Byte × Byte :=
  let t := stepOf (loaded code [r0, r1])
  (t.reg 0, readSR t)

/-- The fault record after one step, with `pc`. -/
def faultOf (s : State) : Nat × Nat × Nat :=
  let t := stepOf s
  (t.fault.code.toNat, t.fault.info.toNat, t.pc.toNat)

/-! ### Well-formedness -/

/-- The only ill-formed terms: `ROOT` with index 0 (30_encoding.md R81). -/
theorem test_wellFormed_refuses_root_zero : Instr.wellFormed (.root 0 0) = false := by decide

theorem test_wellFormed_accepts_root_one : Instr.wellFormed (.root 0 1) = true := by decide

/-! ### Decoding: bytes written out from 30_encoding.md R71, R77 to R83 -/

theorem test_decode_control :
    decode [0x00] = .ok .nop ∧
    decode [0x01] = .ok .hlt ∧
    decode [0x02] = .ok .ret ∧
    decode [0x03] = .ok .yield ∧
    decode [0x10, 0x34, 0x12, 0x00] = .ok (.jmp 0x001234) ∧
    decode [0x11, 0x20, 0x00, 0x00] = .ok (.jz 0x20) ∧
    decode [0x12, 0x00, 0x01, 0x00] = .ok (.jn 0x100) ∧
    decode [0x13, 0x00, 0x00, 0x01] = .ok (.jc 0x10000) ∧
    decode [0x14, 0xFF, 0xFF, 0xFF] = .ok (.jo 0xFFFFFF) ∧
    decode [0x15, 0x08, 0x00, 0x00] = .ok (.call 8) ∧
    decode [0x16, 0x03, 0x09, 0x00] = .ok (.loop 3 0x0009) :=
  ⟨rfl, rfl, rfl, rfl, rfl, rfl, rfl, rfl, rfl, rfl, rfl⟩

theorem test_decode_data :
    decode [0x20, 0x01, 0x0E] = .ok (.mov 1 14) ∧
    decode [0x21, 0x05, 0xA3] = .ok (.movi 5 0xA3) ∧
    decode [0x22, 0x13, 0x0F, 0x01] = .ok (.load 1 3 0x010F) ∧
    decode [0x23, 0xF4, 0x02, 0x00] = .ok (.store 15 4 0x0002) ∧
    decode [0x24, 0x0F] = .ok (.push 15) ∧
    decode [0x25, 0x01] = .ok (.pop 1) ∧
    decode [0x26, 0x02, 0x00, 0x00] = .ok (.lstate 2) ∧
    decode [0x27, 0x00, 0x10, 0x00] = .ok (.sstate 0x1000) :=
  ⟨rfl, rfl, rfl, rfl, rfl, rfl, rfl, rfl⟩

theorem test_decode_arithmetic :
    decode [0x40, 0x00, 0x01] = .ok (.mul 0 1) ∧
    decode [0x41, 0x02, 0x03] = .ok (.div 2 3) ∧
    decode [0x42, 0x04, 0xC8] = .ok (.pow 4 200) ∧
    decode [0x43, 0x05, 0x02] = .ok (.root 5 2) ∧
    decode [0x44, 0x06] = .ok (.inv 6) ∧
    decode [0x45, 0x07] = .ok (.conj 7) ∧
    decode [0x46, 0x08, 0x09] = .ok (.add 8 9) ∧
    decode [0x47, 0x0A, 0x0B] = .ok (.sub 10 11) ∧
    decode [0x48, 0x0C] = .ok (.mag 12) ∧
    decode [0x49, 0x0D] = .ok (.phase 13) ∧
    decode [0x4A, 0x0E, 0xFE] = .ok (.scale 14 0xFE) ∧
    decode [0x4B, 0x0F, 0x7F] = .ok (.rotate 15 0x7F) :=
  ⟨rfl, rfl, rfl, rfl, rfl, rfl, rfl, rfl, rfl, rfl, rfl, rfl⟩

theorem test_decode_layer :
    decode [0x60, 0x03] = .ok (.xorl 3) ∧
    decode [0x61, 0x04] = .ok (.andl 4) ∧
    decode [0x62, 0x05] = .ok (.orl 5) ∧
    decode [0x63, 0x0F] = .ok (.rotl 15) ∧
    decode [0x64, 0x02] = .ok (.fold .cmul) ∧
    decode [0x65, 0x02, 0x74] = .ok (.spread 2 4 7) ∧
    decode [0x66, 0x05, 0x1E] = .ok (.gather 5 14 1) :=
  ⟨rfl, rfl, rfl, rfl, rfl, rfl, rfl⟩

theorem test_decode_transform_compatibility :
    decode [0x80] = .ok .trans ∧
    decode [0x81] = .ok .pipe ∧
    decode [0x82, 0x01, 0x02] = .ok .lerp ∧
    decode [0x83] = .ok .slerp ∧
    decode [0x84, 0xFF] = .ok .grad ∧
    decode [0x85] = .ok .descent ∧
    decode [0x86] = .ok .emerge ∧
    decode [0x87] = .ok .collapse ∧
    decode [0xA0] = .ok .promote ∧
    decode [0xA1, 0x00, 0x00] = .ok .demote :=
  ⟨rfl, rfl, rfl, rfl, rfl, rfl, rfl, rfl, rfl, rfl⟩

theorem test_decode_system :
    decode [0xC0, 0x01, 0x0F] = .ok (.sense 1 15) ∧
    decode [0xC1, 0x05, 0x02] = .ok (.act 5 2) ∧
    decode [0xC4] = .ok .sync ∧
    decode [0xC5, 0xFF] = .ok .broadcast ∧
    decode [0xC6, 0x01] = .ok .receive ∧
    decode [0xC7, 0xFF, 0xFF] = .ok .entangle :=
  ⟨rfl, rfl, rfl, rfl, rfl, rfl⟩

theorem test_decode_hint :
    decode [0xE0] = .ok .hintCpu ∧
    decode [0xE1] = .ok .hintGpu ∧
    decode [0xE2] = .ok .hintNpu ∧
    decode [0xE3] = .ok .hintFpga ∧
    decode [0xE4] = .ok .hintDsp ∧
    decode [0xE8] = .ok .batchBegin ∧
    decode [0xE9] = .ok .batchEnd ∧
    decode [0xEA, 0xFF, 0xFF, 0xFF] = .ok .prefetch ∧
    decode [0xEB] = .ok .fence :=
  ⟨rfl, rfl, rfl, rfl, rfl, rfl, rfl, rfl, rfl⟩

/-- What is not decoded: R72's order, R84 and R87 (95_test_vectors.md 2.1). -/
theorem test_decode_refuses :
    decode [0x04] = .error (.illegalOpcode 0x04) ∧ decode [0xF0] = .error (.illegalOpcode 0xF0) ∧
    decode [0x40, 0x10, 0x20] = .error (.illegalOperand 1 0x10) ∧
    decode [0x20, 0x01, 0x20] = .error (.illegalOperand 2 0x20) ∧
    decode [0x64, 0x03] = .error (.illegalOperand 1 0x03) ∧
    decode [0x43, 0x00, 0x00] = .error (.illegalOperand 2 0x00) ∧
    decode [0xEA, 0x00, 0x00] = .error (.missing 3) :=
  ⟨rfl, rfl, rfl, rfl, rfl, rfl, rfl⟩

/-- R83: the table's numbers have `B0` first. -/
theorem test_table_word :
    decodeTableWord 24 0x400001 = some (.mul 0 1) ∧ decodeTableWord 32 0x16030900 = some (.loop 3 0x0009) ∧
    decodeTableWord 8 0x02 = some .ret := ⟨rfl, rfl, rfl⟩

theorem test_withFetchWord :
    step (State.reset.withFetchWord 24 0x21A3 ) = exec .nop (State.reset.withFetchWord 24 0x21A3) ∧
    (stepOf (State.reset.withFetchWord 24 0x2105A3)).reg 5 = 0xA3 := ⟨rfl, by decide⟩

/-! ### One step of each instruction (95_test_vectors.md sections 1 and 2) -/

theorem test_nop :
    result (loaded [0x00] fileS 0x1F) = (fileS, 0x1F, 1) := by decide

theorem test_hlt :
    result (loaded [0x01] fileS) = (fileS, 0x00, 0) ∧ (stepOf (loaded [0x01])).run = .halted := by decide

theorem test_yield :
    result (loaded [0x03] fileS) = (fileS, 0x00, 1) ∧ (stepOf (loaded [0x03])).run = .yielded := by decide

theorem test_jmp :
    result (loaded [0x10, 0x34, 0x12, 0x00] fileS) = (fileS, 0x00, 0x1234) := by decide

theorem test_jz :
    result (loaded [0x11, 0x20, 0x00, 0x00] fileS 0x01) = (fileS, 0x01, 0x20) ∧
    result (loaded [0x11, 0x20, 0x00, 0x00] fileS 0x1E) = (fileS, 0x1E, 4) := by decide

theorem test_jn :
    result (loaded [0x12, 0x20, 0x00, 0x00] fileS 0x02) = (fileS, 0x02, 0x20) ∧
    result (loaded [0x12, 0x20, 0x00, 0x00] fileS 0x1D) = (fileS, 0x1D, 4) := by decide

theorem test_jc :
    result (loaded [0x13, 0x20, 0x00, 0x00] fileS 0x08) = (fileS, 0x08, 0x20) ∧
    result (loaded [0x13, 0x20, 0x00, 0x00] fileS 0x17) = (fileS, 0x17, 4) := by decide

theorem test_jo :
    result (loaded [0x14, 0x20, 0x00, 0x00] fileS 0x04) = (fileS, 0x04, 0x20) ∧
    result (loaded [0x14, 0x20, 0x00, 0x00] fileS 0x1B) = (fileS, 0x1B, 4) := by decide

theorem test_call :
    let t := stepOf ({ loaded [0x15, 0x08, 0x00, 0x00] with vs := [0x01, 0x02] })
    t.cs = [⟨4, 0⟩] ∧ t.fp = 2 ∧ t.pc = 8 ∧ t.vs = [0x01, 0x02] := by decide

theorem test_call_overflow :
    faultOf { loaded [0x15, 0x00, 0x00, 0x00] with cs := [⟨4, 0⟩, ⟨4, 0⟩], cfg := ⟨4096, 256, 2, 16⟩ } = (4, 1, 0) := by decide

theorem test_ret :
    let t := stepOf { loaded [0x02] with cs := [⟨9, 7⟩, ⟨4, 1⟩], fp := 2 }
    t.cs = [⟨9, 7⟩] ∧ t.fp = 1 ∧ t.pc = 4 := by decide

theorem test_ret_underflow :
    faultOf (loaded [0x02]) = (5, 1, 0) := by decide

theorem test_loop :
    result (loaded [0x16, 0x03, 0x20, 0x00] [0, 0, 0, 2] 0x1F) = ([0, 0, 0, 1, 0, 0, 0, 0, 0, 0, 0, 0, 0, 0, 0, 0], 0x1F, 0x20) ∧
    (stepOf (loaded [0x16, 0x03, 0x20, 0x00] [0, 0, 0, 1])).pc = 4 := by decide

theorem test_loop_wraps :
    let t := stepOf (loaded [0x16, 0x03, 0x20, 0x00])
    t.reg 3 = 0xFF ∧ t.pc = 0x20 := by decide

theorem test_mov :
    result (loaded [0x20, 0x0F, 0x00] fileS 0x1F) = (fileS.take 15 ++ [0xA3], 0x1F, 3) := by decide

theorem test_movi :
    result (loaded [0x21, 0x0F, 0x00] fileS 0x1F) = (fileS.take 15 ++ [0x00], 0x1F, 3) := by decide

theorem test_load :
    (stepOf (coreHeap [0x22, 0x13, 0x0F, 0x00] ((List.range 16).map fun i => BitVec.ofNat 8 (16 + i)) [])).reg 3 = 0x1F ∧
    (stepOf (loaded [0x22, 0x02, 0x04, 0x00, 0x5A])).reg 2 = 0x5A := by decide

theorem test_load_faults :
    faultOf (loaded [0x22, 0x02, 0x05, 0x00, 0x5A]) = (1, 0x00000005, 0) ∧
    faultOf (loaded [0x22, 0x23, 0x00, 0x00]) = (2, 0x20000000, 0) ∧
    faultOf (loaded [0x22, 0xE3, 0x34, 0x12]) = (1, 0xE0001234, 0) := by decide

theorem test_store :
    let t := stepOf (loaded [0x23, 0x14, 0x25, 0x00] [0, 0, 0, 0, 0xC2])
    t.heapLen = 3 ∧ t.mem.read 0x10000025 = 0xC2 ∧ t.mem.read 0x10000026 = 0x00 ∧ t.pc = 4 := by decide

theorem test_store_faults :
    faultOf (loaded [0x23, 0x00, 0xFF, 0xFF]) = (2, 0x0000FFFF, 0) ∧
    faultOf { loaded [0x23, 0x10, 0x40, 0x00] with cfg := ⟨4, 256, 256, 16⟩ } = (3, 0x10000040, 0) ∧
    faultOf (loaded [0x23, 0xF4, 0x10, 0x00]) = (1, 0xF0000010, 0) := by decide

theorem test_push :
    let t := stepOf { loaded [0x24, 0x00] [0xA3] with vs := [0x11] }
    t.vs = [0x11, 0xA3] ∧ t.pc = 2 := by decide

theorem test_push_overflow :
    faultOf { loaded [0x24, 0x00] with cfg := ⟨4096, 0, 256, 16⟩ } = (4, 0, 0) := by decide

theorem test_pop :
    let t := stepOf { loaded [0x25, 0x01] with vs := [0x11, 0xA3] }
    t.vs = [0x11] ∧ t.reg 1 = 0xA3 ∧ t.pc = 2 := by decide

theorem test_pop_underflow :
    faultOf (loaded [0x25, 0x02]) = (5, 0, 0) := by decide

theorem test_lstate :
    result (coreHeap [0x26, 0x02, 0x00, 0x00] (List.replicate 32 0x00 ++ fileS) [] 0x07) = (fileS, 0x07, 4) := by decide

theorem test_lstate_faults :
    faultOf (loaded [0x26, 0xFF, 0xFF, 0xFF]) = (1, 0x1FFFFFF0, 0) := by decide

theorem test_sstate :
    let t := stepOf (loaded [0x27, 0x02, 0x00, 0x00] fileS)
    t.heapLen = 3 ∧ readHeap 2 t = .ok fileS ∧ readHeap 1 t = .ok (List.replicate 16 0x00) := ⟨by decide, rfl, rfl⟩

theorem test_sstate_faults :
    faultOf (loaded [0x27, 0x00, 0x10, 0x00]) = (3, 0x10010000, 0) := by decide

theorem test_mul :
    after [0x40, 0x00, 0x01] 0xA3 0x91 = (0xB4, 0x00) ∧
    after [0x40, 0x00, 0x01] 0x00 0xFF = (0x7F, 0x02) ∧
    after [0x40, 0x00, 0x01] 0xF8 0x98 = (0xF0, 0x04) := by decide

theorem test_div :
    after [0x41, 0x00, 0x01] 0xB4 0x91 = (0xA3, 0x00) ∧
    after [0x41, 0x00, 0x01] 0x3C 0xD5 = (0x07, 0x07) ∧
    after [0x41, 0x00, 0x01] 0x80 0x00 = (0xF0, 0x04) := by decide

theorem test_pow :
    after [0x42, 0x00, 0x03] 0xA3 0x00 = (0xE9, 0x00) ∧ after [0x42, 0x00, 0xFF] 0x71 0x00 = (0x0F, 0x07) ∧
    after [0x42, 0x00, 0x00] 0xA3 0x00 = (0x80, 0x00) := by decide

theorem test_root :
    after [0x43, 0x00, 0x02] 0x17 0x00 = (0x53, 0x02) ∧ after [0x43, 0x00, 0x09] 0xFF 0x00 = (0x81, 0x00) ∧
    after [0x43, 0x00, 0x07] 0x1F 0x00 = (0x72, 0x02) := by decide

theorem test_root_zero : faultOf (loaded [0x43, 0x00, 0x00] [0xA3]) = (10, 0x0200, 0) := by decide

theorem test_inv :
    after [0x44, 0x00] 0xA3 0x00 = (0x6D, 0x02) ∧ after [0x44, 0x00] 0x0C 0x00 = (0xF4, 0x04) := by decide

theorem test_conj :
    after [0x45, 0x00] 0xA3 0x00 = (0xAD, 0x00) ∧ after [0x45, 0x00] 0x0F 0x00 = (0x01, 0x03) := by decide

theorem test_add :
    after [0x46, 0x00, 0x01] 0x8F 0x80 = (0x90, 0x00) ∧ after [0x46, 0x00, 0x01] 0x00 0x09 = (0x0D, 0x07) ∧
    after [0x46, 0x00, 0x01] 0x70 0x88 = (0x88, 0x00) ∧ after [0x46, 0x00, 0x01] 0x80 0x88 = (0x00, 0x03) := by decide

theorem test_sub :
    after [0x47, 0x00, 0x01] 0xA3 0x91 = (0xA4, 0x00) ∧ after [0x47, 0x00, 0x01] 0x91 0xA3 = (0xAC, 0x00) ∧
    after [0x47, 0x00, 0x01] 0x00 0x0F = (0x04, 0x07) := by decide

theorem test_mag :
    after [0x48, 0x00] 0xA3 0x00 = (0xA0, 0x00) ∧ after [0x48, 0x00] 0x0F 0x00 = (0x00, 0x03) := by decide

theorem test_phase :
    after [0x49, 0x00] 0xA3 0x00 = (0x83, 0x00) ∧ after [0x49, 0x00] 0x00 0x00 = (0x80, 0x00) := by decide

theorem test_scale :
    after [0x4A, 0x00, 0xFE] 0xA3 0x00 = (0x83, 0x00) ∧ after [0x4A, 0x00, 0x80] 0xA3 0x00 = (0x03, 0x07) ∧
    after [0x4A, 0x00, 0xF7] 0x80 0x00 = (0x00, 0x07) := by decide

theorem test_rotate :
    after [0x4B, 0x00, 0xFF] 0xA0 0x00 = (0xAF, 0x00) ∧ after [0x4B, 0x00, 0x7F] 0xA3 0x00 = (0xA2, 0x00) := by decide

theorem test_xorl :
    result (loaded [0x60, 0x03] fileS 0x1C) =
      ([0xA3, 0x91, 0x80, 0xB0, 0x7F, 0x84, 0xC2, 0x15, 0x88, 0x6D, 0xF0, 0x0F, 0x33, 0xB4, 0x5A, 0xE9], 0x18, 2) := by decide

theorem test_andl :
    result (loaded [0x61, 0x03] fileS 0x1C) =
      ([0xA3, 0x91, 0x80, 0x00, 0x7F, 0x84, 0xC2, 0x15, 0x88, 0x6D, 0xF0, 0x0F, 0x33, 0xB4, 0x5A, 0xE9], 0x1B, 2) := by decide

theorem test_orl :
    result (loaded [0x62, 0x03] fileS 0x1C) =
      ([0xA3, 0x91, 0x80, 0xFF, 0x7F, 0x84, 0xC2, 0x15, 0x88, 0x6D, 0xF0, 0x0F, 0x33, 0xB4, 0x5A, 0xE9], 0x18, 2) := by decide

theorem test_rotl :
    result (loaded [0x63, 0x05] fileS 0x1C) =
      ([0x0F, 0x33, 0xB4, 0x5A, 0xE9, 0xA3, 0x91, 0x80, 0x00, 0x7F, 0x84, 0xC2, 0x15, 0x88, 0x6D, 0xF0], 0x1C, 2) ∧
    result (loaded [0x63, 0x0F] fileS 0x1C) =
      ([0x91, 0x80, 0x00, 0x7F, 0x84, 0xC2, 0x15, 0x88, 0x6D, 0xF0, 0x0F, 0x33, 0xB4, 0x5A, 0xE9, 0xA3], 0x1C, 2) := by decide

theorem test_fold :
    result (loaded [0x64, 0x00] fileS 0x1C) =
      ([0x2B, 0xFC, 0x70, 0x0F, 0x4C, 0x30, 0x98, 0xFC, 0x88, 0x6D, 0xF0, 0x0F, 0x33, 0xB4, 0x5A, 0xE9], 0x1C, 2) ∧
    result (loaded [0x64, 0x01] fileS 0x1C) =
      ([0xA3, 0x91, 0xF0, 0x10, 0x7F, 0xB4, 0xC2, 0xE9, 0x88, 0x6D, 0xF0, 0x0F, 0x33, 0xB4, 0x5A, 0xE9], 0x1C, 2) ∧
    result (loaded [0x64, 0x02] fileS 0x1C) =
      ([0xAB, 0x7E, 0xF0, 0x0F, 0x22, 0xB8, 0x9C, 0x7E, 0x88, 0x6D, 0xF0, 0x0F, 0x33, 0xB4, 0x5A, 0xE9], 0x1C, 2) := by decide

theorem test_spread :
    result (loaded [0x65, 0x02, 0x74] fileS 0x1C) =
      ([0xA3, 0x91, 0x80, 0x00, 0x80, 0x80, 0x80, 0x80, 0x88, 0x6D, 0xF0, 0x0F, 0x33, 0xB4, 0x5A, 0xE9], 0x1C, 3) ∧
    result (loaded [0x65, 0x02, 0x1E] fileS 0x1C) =
      ([0x80, 0x80, 0x80, 0x00, 0x7F, 0x84, 0xC2, 0x15, 0x88, 0x6D, 0xF0, 0x0F, 0x33, 0xB4, 0x80, 0x80], 0x1C, 3) := by decide

theorem test_gather :
    result (loaded [0x66, 0x00, 0x74] fileS 0x1C) =
      ([0x2C, 0x91, 0x80, 0x00, 0x7F, 0x84, 0xC2, 0x15, 0x88, 0x6D, 0xF0, 0x0F, 0x33, 0xB4, 0x5A, 0xE9], 0x1A, 3) ∧
    result (loaded [0x66, 0x05, 0x1E] fileS 0x1C) =
      ([0xA3, 0x91, 0x80, 0x00, 0x7F, 0x81, 0xC2, 0x15, 0x88, 0x6D, 0xF0, 0x0F, 0x33, 0xB4, 0x5A, 0xE9], 0x18, 3) := by decide

/-- 95_test_vectors.md 2.7. -/
theorem test_unsupported :
    faultOf (loaded [0x80] fileS 0x0F) = (11, 0x80, 0) ∧ faultOf (loaded [0x81] fileS) = (11, 0x81, 0) ∧
    faultOf (loaded [0x82, 0x00, 0x00]) = (11, 0x82, 0) ∧ faultOf (loaded [0x83]) = (11, 0x83, 0) ∧
    faultOf (loaded [0x84]) = (11, 0x84, 0) ∧ faultOf (loaded [0x85]) = (11, 0x85, 0) ∧
    faultOf (loaded [0xA0]) = (11, 0xA0, 0) ∧ faultOf (loaded [0xA1]) = (11, 0xA1, 0) ∧
    result (loaded [0x80] fileS 0x0F) = (fileS, 0x0F, 0) := by decide

/-- 95_test_vectors.md 2.7, 2.8: the stubs. -/
theorem test_stubs :
    result (loaded [0x86] fileS 0x0F) = (fileS, 0x0F, 1) ∧ result (loaded [0x87] fileS 0x0F) = (fileS, 0x0F, 1) ∧
    result (loaded [0xC4] fileS 0x1F) = (fileS, 0x1F, 1) ∧ result (loaded [0xC5, 0xFF] fileS 0x1F) = (fileS, 0x1F, 2) ∧
    result (loaded [0xC6, 0x01] fileS 0x1F) = (fileS, 0x1F, 2) ∧
    result (loaded [0xC7, 0xFF, 0xFF] fileS 0x1F) = (fileS, 0x1F, 3) := by decide

/-- 95_test_vectors.md 2.9. -/
theorem test_hints :
    result (loaded [0xE0] fileS 0x1F) = (fileS, 0x1F, 1) ∧ result (loaded [0xE1] fileS 0x1F) = (fileS, 0x1F, 1) ∧
    result (loaded [0xE2] fileS 0x1F) = (fileS, 0x1F, 1) ∧ result (loaded [0xE3] fileS 0x1F) = (fileS, 0x1F, 1) ∧
    result (loaded [0xE4] fileS 0x1F) = (fileS, 0x1F, 1) ∧ result (loaded [0xE8] fileS 0x1F) = (fileS, 0x1F, 1) ∧
    result (loaded [0xE9] fileS 0x1F) = (fileS, 0x1F, 1) ∧ result (loaded [0xEB] fileS 0x1F) = (fileS, 0x1F, 1) ∧
    result (loaded [0xEA, 0xFF, 0xFF, 0xFF] fileS 0x1F) = (fileS, 0x1F, 4) := by decide

/-- 95_test_vectors.md 1.4, 2.8. -/
theorem test_sense :
    (let t := stepOf (attachStream [0x00] (loaded [0xC0, 0x01, 0x0F] [] 0x10))
     t.reg 1 = 0x00 ∧ readSR t = 0x00 ∧ t.instream.pos = 1 ∧ t.pc = 3) ∧
    let s := { loaded [0xC0, 0x01, 0x00] [] 0x17 with sensor := file [0x5A] }
    (stepOf s).reg 1 = 0x5A ∧ readSR (stepOf s) = 0x07 ∧
    (stepOf (attachStream [] s)).reg 1 = 0x5A ∧ readSR (stepOf (attachStream [] s)) = 0x17 := by decide

theorem test_sense_invalid :
    faultOf (attachStream [0x11] (loaded [0xC0, 0x01, 0x10])) = (6, 0x10, 0) ∧ faultOf (loaded [0xC0, 0x01, 0xFF]) = (6, 0xFF, 0) := by
  decide

theorem test_act :
    let t := stepOf { loaded [0xC1, 0x0F, 0x00] [0xB4] with outlog := [⟨3, 0xB4⟩] }
    t.actuator = file (List.replicate 15 0x00 ++ [0xB4]) ∧ t.outlog = [⟨3, 0xB4⟩, ⟨15, 0xB4⟩] ∧ t.pc = 3 := by decide

theorem test_act_invalid :
    faultOf (loaded [0xC1, 0x20, 0x00]) = (7, 0x20, 0) ∧ faultOf (loaded [0xC1, 0x20, 0x1F]) = (10, 0x021F, 0) := by decide

/-- 95_test_vectors.md 2.1. -/
theorem test_fetch_faults :
    faultOf (loaded []) = (1, 0, 0) ∧ faultOf (loaded [0x40, 0x00]) = (1, 2, 0) ∧ faultOf (loaded [0x16, 0x00]) = (1, 2, 0) ∧
    faultOf (loaded [0xC2]) = (9, 0xC2, 0) ∧ faultOf (loaded [0x16, 0x13, 0x04, 0x00]) = (10, 0x0113, 0) := by decide

/-! ### Host, container, assembler text -/

/-- 95_test_vectors.md 2.10. -/
theorem test_host :
    readSR (writeSR 0xFF State.reset) = 0x1F ∧ hostResume (stepOf (loaded [0x01])) = stepOf (loaded [0x01]) ∧
    hostClearFault (stepOf (loaded [0x02])) = loaded [0x02] ∧
    (drainLog { loaded [] with outlog := [⟨3, 0xB4⟩] }).1 = [⟨3, 0xB4⟩] := by decide

theorem test_setConfig_refused : setConfig .heapCap 2 { loaded [] with heapLen := 3 } = .error .invalidConfig := rfl

theorem test_hostLoad : ∃ t, hostLoad [0x01] (List.replicate 16 0x11 ++ [0x20]) 7 0x1234 State.reset = .ok t ∧
    t.heapLen = 2 ∧ t.pc = 7 ∧ t.mode = 0x1234 ∧ t.mem.read 0x10000010 = 0x20 ∧ t.mem.read 0x10000011 = 0x00 :=
  ⟨_, rfl, by decide⟩

/-- 95_test_vectors.md 1.8: the check values and the smallest file. -/
theorem test_fnv1a :
    fnv1a [] = 0xcbf29ce484222325 ∧ fnv1a [0x61] = 0xaf63dc4c8601ec8c ∧
    fnv1a [0x21, 0x00, 0xA3, 0x21, 0x01, 0x91, 0x40, 0x00, 0x01, 0x01, 0x10, 0x11, 0x12, 0x13, 0x14, 0x15, 0x16, 0x17,
      0x18, 0x19, 0x1A, 0x1B, 0x1C, 0x1D, 0x1E, 0x1F] = 0x8528f3ac019d24c8 := by decide

/-- The smallest legal file, with one byte of it to be changed. -/
def smallFile (code count : Byte) : List Byte :=
  [0x53, 0x49, 0x4C, 0x43, 0x00, 0x01, 0x00, 0x00, 0x01, 0x00, 0x00, 0x00, 0x00, 0x00, 0x00, 0x00,
   0x04, 0x00, 0x00, 0x00, 0x00, 0x00, 0x00, 0x00, 0x2C, 0xB6, 0x01, 0x86, 0x4C, 0xBC, 0x63, 0xAF,
   code, count, 0x00, 0x00, 0x00]

theorem test_silc :
    readSilc (smallFile 0x01 0x00) = .ok ⟨[0x01], [], 0, 0, [], none⟩ ∧
    readSilc (smallFile 0x00 0x00) = .error .invalidBytecode ∧
    readSilc (smallFile 0x01 0x01) = .error .invalidBytecode := ⟨rfl, rfl, rfl⟩

/-- 30_encoding.md R89. -/
theorem test_assembly :
    assembly (.load 1 1 0x0010) = "LOAD R1, [1:0x0010]" ∧ assembly (.store 15 1 0x0002) = "STORE [F:0x0002], R1" ∧
    assembly (.spread 2 4 7) = "SPREAD R2, 4..7" ∧ assembly (.scale 0 0xFD) = "SCALE R0, -3" := by decide

/-! ### Witnesses: for each statement with hypotheses, values that meet them -/

theorem witness_DecodeEncodeRoundTrip :
    Instr.wellFormed (.root 15 1) = true ∧ Instr.wellFormed (.root 0 255) = true := by decide

theorem witness_DecodedBytesAreTheEncoding :
    decode [0x43, 0x0F, 0x01, 0xEE] = .ok (.root 15 1) ∧ classOf 0x43 = some .executes ∧
    decode [0xC7, 0xFF, 0xFF] = .ok .entangle := ⟨rfl, rfl, rfl⟩

theorem witness_UnassignedOpcodesAreIllegal :
    (loaded [0x04]).run = .running ∧ (loaded [0x04]).fetchByte (loaded [0x04]).pc = some 0x04 ∧ Unassigned 0x04 ∧
    (loaded [0xFF]).fetchByte (loaded [0xFF]).pc = some 0xFF ∧ Unassigned 0xFF ∧ Unassigned 0xEC ∧ ¬Unassigned 0xEB := by decide

theorem witness_UnsupportedOpcodesRaise :
    ((0x80 : Byte), Format.b, Instr.trans) ∈ unsupportedRows ∧ (loaded [0x80]).run = .running ∧
    (loaded [0x80]).fetchByte (loaded [0x80]).pc = some 0x80 := by decide

theorem witness_StubsAndHintsActAsNext :
    ((0xEA : Byte), Format.da, Instr.prefetch) ∈ stubRows ++ hintRows ∧ Format.da.width ≤ [0xFF, 0xFF, 0xFF].length + 1 ∧
    [(0xFF : Byte), 0xFF].length + 1 < Format.da.width := by decide

theorem witness_StepRunsDecodedInstruction :
    (loaded [0x43, 0x0F, 0x01]).run = .running ∧ Instr.wellFormed (.root 15 1) = true ∧
    (∀ (k : Nat) (h : k < (encode (.root 15 1)).length),
      (loaded [0x43, 0x0F, 0x01]).fetchByte ((loaded [0x43, 0x0F, 0x01]).pc + BitVec.ofNat 32 k) = some ((encode (.root 15 1))[k])) ∧
    decode ((loaded [0x43, 0x0F, 0x01]).fetchWindow (loaded [0x43, 0x0F, 0x01]).pc 4) = .ok (.root 15 1) ∧
    decode ((loaded []).fetchWindow (loaded []).pc 4) = .error (.missing 0) ∧ (loaded []).run = .running ∧
    (stepOf (loaded [0x01])).run ≠ .running := by
  refine ⟨rfl, rfl, ?_, rfl, rfl, rfl, by decide⟩
  intro k h
  have : k < 3 := h
  interval_cases k <;> rfl

theorem witness_FetchStopsAtFirstMissingByte :
    (loaded []).run = .running ∧ (loaded []).fetchByte (loaded []).pc = none ∧
    formatOf 0x40 = some .c ∧ classOf 0x40 ≠ some .unsupported ∧ 2 < Format.c.width ∧
    (loaded [0x40]).fetchByte 0 = some 0x40 ∧ (loaded [0x40]).fetchByte 1 = none ∧
    (loaded [0x40, 0x00]).fetchByte 1 ≠ none ∧ (loaded [0x40, 0x00]).fetchByte 2 = none ∧
    formatOf 0xEA = some .da ∧ 3 < Format.da.width ∧ (loaded [0xEA, 0x00, 0x00]).fetchByte 2 ≠ none ∧
    (loaded [0xEA, 0x00, 0x00]).fetchByte 3 = none := by decide

theorem witness_IllegalOperandsAreRefusedInOrder :
    16 ≤ (0x10 : Byte).toNat ∧ (0x0F : Byte).toNat < 16 ∧ 3 ≤ (0x03 : Byte).toNat ∧
    (loaded [0x40, 0x0F, 0x10]).run = .running ∧
    (loaded [0x40, 0x0F, 0x10]).fetchInstr = .error (.illegalOperand 2 0x10) ∧
    (loaded [0x64, 0x03]).fetchInstr = .error (.illegalOperand 1 0x03) := ⟨by decide, by decide, by decide, rfl, rfl, rfl⟩

theorem witness_OperandFormsAreAsEncoded :
    15 < (layerRange 0 15).length ∧ 0 < (layerRange 7 7).length ∧ 15 < (layerRange 9 8).length ∧
    segmentOf 0x1FFFFFFF = some .stateHeap ∧ (0x1FFFFFFF : Addr).toNat = (stateAddress 0xFFFFFF).toNat + (15 : Reg).val := by decide

theorem witness_PackingIsReversible :
    rho (pack (-8) 15) = -8 ∧ rho (pack 7 (-1)) = 7 ∧ theta (pack 7 (-1)) = 15 := by decide

theorem witness_ZeroAndNegativeFlags :
    (SR.setZNO ⟨false, false, false, false, false⟩ 0x0F false).z = true := by decide

theorem witness_RootDividesExponentAndPhase :
    (0x01 : Byte) ≠ 0 ∧ (0xFF : Byte) ≠ 0 := by decide

theorem witness_DivUndoesMulExactlyWithoutOverflow :
    (0 : Reg) ≠ 1 ∧ (∃ t, exec (.mul 0 1) (loaded [] [0xA3, 0x91]) = .next t ∧ t.sr.o = false ∧ ∃ u, exec (.div 0 1) t = .next u ∧ u.reg 0 = 0xA3) ∧
    ∃ t, exec (.mul 0 1) (loaded [] [0xF3, 0xA1]) = .next t ∧ t.sr.o = true ∧ ∃ u, exec (.div 0 1) t = .next u ∧ u.reg 0 = 0xD3 := ⟨by decide, ⟨_, rfl, by decide, _, rfl, by decide⟩, _, rfl, by decide, _, rfl, by decide⟩

theorem witness_ArithmeticUnitIdentities :
    rho 0x10 ≠ -8 ∧ rho 0xFF ≠ -8 := by decide

theorem witness_CartesianAddRotates :
    rho 0x83 = rho 0x8B ∧ (theta 0x8B - theta 0x83) % 16 = 8 := by decide

theorem witness_CartesianTableSelfChecks :
    ¬((1 : Reg) = 0 ∧ (1 : Reg).val % 2 = 1) ∧ ¬((15 : Reg) = 15 ∧ (14 : Reg).val % 2 = 1) ∧ (0 : Reg).val + 2 ≤ (2 : Reg).val ∧
    (14 : Reg).val < 15 := by decide

theorem witness_JumpsFollowTheirFlag :
    (loaded [] [] 0x01).sr.z = true ∧ (loaded []).sr.z = false ∧ (loaded [] [] 0x02).sr.n = true ∧ (loaded [] [] 0x08).sr.c = true ∧
    (loaded [] [] 0x04).sr.o = true ∧ (loaded []).sr.o = false := by decide

/-- A core with one frame and one value on stacks of capacity one, and the smallest heap. -/
def tight : State :=
  { loaded [0x00] with
    vs := [0xA3], cs := [⟨4, 0⟩], heapLen := 1, cfg := ⟨2, 1, 1, 16⟩,
    mem := Memory.ofBytes codeBase [0x00] ++ Memory.ofBytes heapBase [0x11] }

/-- A core about to run `PUSH R2` on a full value stack of capacity one. -/
def fullStack : State := { loaded [0x24, 0x02] with vs := [0xA3], cfg := ⟨2, 1, 1, 16⟩ }

theorem witness_CallPushesAFrame :
    (loaded []).cs.length ≠ (loaded []).cfg.cstackCap ∧ tight.cs.length = tight.cfg.cstackCap := by decide

theorem witness_RetPopsAFrame :
    tight.cs = [] ++ [⟨4, 0⟩] ∧ (loaded []).cs = [] := by decide

theorem witness_LoopDecrementsAndBranches :
    (0x10 : Byte).toNat / 16 ≠ 0 ∧
    (∃ t, exec (.loop 3 0x20) (loaded []) = .next t ∧ t.reg 3 ≠ 0) ∧
    ∃ t, exec (.loop 0 0x20) (loaded [] [0x01]) = .next t ∧ t.reg 0 = 0 := ⟨by decide, ⟨_, rfl, by decide⟩, _, rfl, by decide⟩

theorem witness_LoadReadsOneByte :
    (0x0000 : BitVec 16).toNat < tight.codeLen ∧ (0x000F : BitVec 16).toNat < 16 * tight.heapLen ∧
    (0x000F : BitVec 16).toNat < tight.cfg.ioPorts ∧ ¬(0x0010 : BitVec 16).toNat < 16 * tight.heapLen ∧
    ¬(0x0010 : BitVec 16).toNat < tight.cfg.ioPorts := by decide

theorem witness_StoreWritesOneByte :
    tight.MemInv ∧ tight.CapInv ∧ (0x001F : BitVec 16).toNat / 16 < tight.cfg.heapCap ∧
    ¬(0x0020 : BitVec 16).toNat / 16 < tight.cfg.heapCap ∧ (0x000F : BitVec 16).toNat < tight.cfg.ioPorts ∧
    ¬(0x0010 : BitVec 16).toNat < tight.cfg.ioPorts := by decide

theorem witness_PushAppendsAndPopTakesTheLast :
    (loaded []).vs.length ≠ (loaded []).cfg.vstackCap ∧ tight.vs.length = tight.cfg.vstackCap ∧ tight.vs = [] ++ [0xA3] ∧
    (loaded []).vs = [] := by decide

theorem witness_LstateReadsAWholeState :
    (imm24 0x00 0x00 0x00).toNat < tight.heapLen ∧ tight.heapLen ≤ (imm24 0x01 0x00 0x00).toNat := by decide

theorem witness_SstateWritesAWholeState :
    tight.MemInv ∧ tight.CapInv ∧ (imm24 0x01 0x00 0x00).toNat < tight.cfg.heapCap ∧
    tight.cfg.heapCap ≤ (imm24 0x02 0x00 0x00).toNat := by decide

theorem witness_LstateRestoresWhatSstateSaved :
    Memory.wf tight.mem ∧ (1 : BitVec 24).toNat < tight.cfg.heapCap ∧ ∃ t, exec (.sstate 1) tight = .next t ∧ t.run = .running := ⟨by decide, by decide, _, rfl, by decide⟩

theorem witness_UnmappedSegmentsAreOutOfBounds :
    3 ≤ (0x30000000 : Addr).toNat / 2 ^ 28 ∧ (0xEFFFFFFF : Addr).toNat / 2 ^ 28 ≤ 14 ∧ 0 < 1 ∧ [(0x00 : Byte)] ≠ [] := by decide

theorem witness_HeapGrowsByVacuumStates :
    Memory.wf tight.mem ∧ segmentOf 0x1000001F = some .stateHeap ∧ [(0x55 : Byte)] ≠ [] ∧
    (offsetOf 0x1000001F + [(0x55 : Byte)].length - 1) / 16 < tight.cfg.heapCap ∧
    tight.cfg.heapCap ≤ (offsetOf 0x10000020 + [(0x55 : Byte)].length - 1) / 16 ∧ segmentOf 0x10000020 = some .stateHeap := by decide

theorem witness_RotlMovesEveryLayer :
    (0x10 : Byte).toNat / 16 ≠ 0 ∧ (0 : Reg).val = ((15 : Reg).val + (1 : Reg).val) % 16 ∧ (0 : Reg).val = (16 - (0 : Reg).val) % 16 ∧
    (15 : Reg).val = (16 - (1 : Reg).val) % 16 := by decide

theorem witness_FoldCombinesLayerPairs :
    2 < (0x03 : Byte).toNat ∧ (7 : Reg).val < 8 ∧ (15 : Reg).val = (7 : Reg).val + 8 ∧ FoldMode.xor = .xor := by decide

theorem witness_SpreadFillsTheRange :
    (((1 : Reg).val : Int) - (14 : Reg).val) % 16 ≤ (((1 : Reg).val : Int) - (14 : Reg).val) % 16 ∧
    (((1 : Reg).val : Int) - (14 : Reg).val) % 16 < (((2 : Reg).val : Int) - (14 : Reg).val) % 16 := by decide

theorem witness_SenseReadsStreamThenSensor :
    16 ≤ (0x10 : Byte).toNat ∧ (0x0F : Byte).toNat < 16 ∧
    (attachStream [0x11] (loaded [])).instream.pos < (attachStream [0x11] (loaded [])).instream.bytes.length ∧
    (attachStream [] (loaded [])).instream.attached = true ∧ (loaded []).instream.attached = false := by decide

theorem witness_ActWritesSlotAndLog :
    (0x10 : Byte).toNat / 16 ≠ 0 ∧ 16 ≤ (0x10 : Byte).toNat ∧ (0x0F : Byte).toNat < 16 := by decide

theorem witness_FaultsArePrecise :
    (loaded [0x02]).run = .running ∧ ∃ t, step (loaded [0x02]) = .next t ∧ t.run = .faulted := ⟨by decide, _, rfl, by decide⟩

theorem witness_ClearFaultRetriesTheInstruction :
    (loaded [0x02]).run = .running ∧ (loaded [0x02]).fault = ⟨0, 0⟩ ∧ (stepOf (loaded [0x01])).run ≠ .faulted ∧
    (∃ t, step (loaded [0x02]) = .next t ∧ t.run = .faulted ∧ ∃ i, decode (t.fetchWindow t.pc 4) = .ok i) ∧
    ∃ t u, fullStack.run = .running ∧ fullStack.fault = ⟨0, 0⟩ ∧
      decode (fullStack.fetchWindow fullStack.pc 4) = .ok (.push 2) ∧ fullStack.vs.length = fullStack.cfg.vstackCap ∧
      step fullStack = .next t ∧ fullStack.cfg.vstackCap < 2 ∧ setConfig .vstackCap 2 t = .ok u := ⟨by decide, by decide, by decide, ⟨_, rfl, by decide, _, rfl⟩,
    _, _, by decide, by decide, by decide, by decide, rfl, by decide, rfl⟩

theorem witness_EveryStepAnswersNext :
    (stepOf (loaded [0x01])).run ≠ .running := by decide

theorem witness_StepKeepsTheInvariant :
    tight.Inv ∧ ∃ t, step tight = .next t ∧ t.pc = 1 := ⟨by decide, _, rfl, by decide⟩

theorem witness_ResetSatisfiesTheInvariant :
    Cfg.Legal ⟨2 ^ 24, 2 ^ 32 - 1, 2 ^ 32 - 1, 65536⟩ ∧ Cfg.Legal ⟨0, 0, 0, 0⟩ := by decide

theorem witness_StepKeepsPcBounded :
    tight.PcBounded ∧ ∃ t, step tight = .next t ∧ t.pc = 1 := ⟨by decide, _, rfl, by decide⟩

theorem witness_StepLeavesCodeAndSettings :
    Memory.wf tight.mem ∧ ∃ t, step tight = .next t ∧ t.pc = 1 := ⟨by decide, _, rfl, by decide⟩

theorem witness_EachStateHasItsWriters :
    ∃ t, exec .nop tight = .next t ∧ t.pc = 1 ∧ Instr.opcode .nop ≠ 0xC0 ∧
    Instr.opcode .nop ≠ 0x23 ∧ Instr.opcode .nop ≠ 0x27 ∧ categoryOf (Instr.opcode .nop) ≠ .arithmetic := ⟨_, rfl, by decide⟩

theorem witness_LoadInstallsTheImage :
    2 ^ 24 < (List.replicate (2 ^ 24 + 1) (0x00 : Byte)).length ∧ [(0x01 : Byte)].length ≤ 2 ^ 24 ∧
    16 * tight.cfg.heapCap < (List.replicate 33 (0x11 : Byte)).length ∧ (List.replicate 32 (0x11 : Byte)).length ≤ 16 * tight.cfg.heapCap ∧
    tight.cfg.heapCap ≤ 2 ^ 24 ∧ 15 < tight.cfg.ioPorts := by
  refine ⟨?_, by decide, by decide, by decide, by decide, by decide⟩
  rw [List.length_replicate]; decide

theorem witness_HostOperationsActAsListed :
    (stepOf (loaded [0x03])).run = .yielded ∧ (loaded []).run ≠ .yielded ∧
    (∃ t, setConfig .ioPorts 65536 tight = .ok t) ∧ (16 < 65536 ∧ tight.cfg.ioPorts ≤ 16) ∧ (15 < 16 ∧ 15 < tight.cfg.ioPorts) ∧
    (∃ t, setConfig .heapCap (2 ^ 24) tight = .ok t) ∧ (∃ e, setConfig .heapCap (2 ^ 24 + 1) tight = .error e) ∧
    ∃ e, setConfig .vstackCap 0 tight = .error e := ⟨by decide, by decide, ⟨_, rfl⟩, by decide, by decide, ⟨_, rfl⟩, ⟨_, rfl⟩, _, rfl⟩

theorem witness_HostOperationsKeepTheInvariant :
    tight.Inv ∧ (∃ t, writeReg 15 0x01 tight = .ok t) ∧ (∃ t, writeSensor 15 0x01 tight = .ok t) ∧
    (∃ t, writePort 15 0x01 tight = .ok t) ∧ (∃ t, setConfig .heapCap 1 tight = .ok t) ∧
    (∃ t, hostLoad [0x01] [0x11] 0 0 tight = .ok t) ∧ ∃ t, hostRun 2 tight = .next t ∧ t.run = .faulted := ⟨by decide, ⟨_, rfl⟩, ⟨_, rfl⟩, ⟨_, rfl⟩, ⟨_, rfl⟩, ⟨_, rfl⟩, _, rfl, by decide⟩

theorem witness_PortsConnectHostAndProgram :
    Memory.wf tight.mem ∧ (0x000F : BitVec 16).toNat < tight.cfg.ioPorts ∧ tight.cfg.ioPorts ≤ 16 := by decide

theorem witness_ReductionsCombineAllLayers :
    (0 < 8) ∧ (7 < 8) := by decide

theorem witness_GatherXorsTheRange :
    (7 < 8) ∧ (3 : Reg) = 3 ∧ (0 : Reg) = 0 ∧ (15 : Reg) = 15 := by decide

end Sys2Proof.Tests
end

section
/-! SUPPORT and PROOFS. The architectural state (10_state.md): which pieces of state one executed instruction can
write, said once as `ExecEffect`, and the invariants and frames of the state that follow from it. -/

namespace Sys2Proof.Machine

/-! ### The ByteSil, its flags and the state after `Reset` -/

theorem rho_eq_highBits (b : Byte) : rho b = ((b.extractLsb' 4 4).toNat : Int) - 8 := by
  have := b.isLt
  simp only [rho, BitVec.extractLsb'_toNat, Nat.shiftRight_eq_div_pow]
  omega

theorem theta_eq_lowBits (b : Byte) : theta b = ((b.extractLsb' 0 4).toNat : Int) := by
  simp only [theta, BitVec.extractLsb'_toNat, Nat.shiftRight_eq_div_pow]
  omega

/-- Settles O11, by the laws of `pack` and its fields. -/
theorem packingIsReversible : Obligations.PackingIsReversible :=
  ⟨fun b => ⟨rho_range b, theta_range b, pack_rho_theta b, rho_eq_highBits b, theta_eq_lowBits b⟩,
    fun _ t hlo hhi => ⟨rho_pack ⟨hlo, hhi⟩ t, theta_pack ⟨hlo, hhi⟩ t⟩⟩

/-- Settles O12: an exponent of -8 is negative, and `pack` keeps the exponent whatever the phase. -/
theorem zeroAndNegativeFlags : Obligations.ZeroAndNegativeFlags := by
  intro f b o
  refine ⟨by simp, by simp, fun hz => ?_, fun t => by simp⟩
  have hrho : rho b = -8 := by simpa using hz
  simp [hrho]

/-- After `Reset` every store, stack and stream is empty, so only the capacities themselves have to be legal. -/
theorem resetWith_inv {c : Cfg} (hc : c.Legal) : (State.resetWith c).Inv := by
  have hmem : (State.resetWith c).MemInv := ⟨⟨.nil, nofun⟩, nofun⟩
  have hcap : (State.resetWith c).CapInv :=
    ⟨hc, Nat.zero_le _, Nat.zero_le _, Nat.zero_le _, Nat.zero_le _⟩
  have hfault : (State.resetWith c).FaultInv := by simp [State.FaultInv, State.resetWith]
  have hstream : (State.resetWith c).StreamInv := by simp [State.StreamInv, State.resetWith]
  exact ⟨hmem, hcap, hfault, hstream⟩

theorem resetWith_pcBounded (c : Cfg) : (State.resetWith c).PcBounded := by
  simp [State.PcBounded, State.resetWith]

/-- Settles O52: the reference configuration is one of the legal ones. -/
theorem resetSatisfiesTheInvariant : Obligations.ResetSatisfiesTheInvariant :=
  ⟨resetWith_inv (by decide), resetWith_pcBounded _, fun c hc => ⟨resetWith_inv hc, resetWith_pcBounded c⟩⟩

/-! ### What one executed instruction can write -/

/-- The instruction, when it completes, is one of format `f` whose operand bytes were all fetched: it is assigned and
not of class "u" (30_encoding.md R83, R85). -/
def Completes (i : Instr) (f : Format) : Prop :=
  formatOf i.opcode = some f ∧ unsupportedOf i.opcode = none

/-- The writers of `Z`, `N` and `O`: the Arithmetic instructions and the four reductions (the flag table after
10_state.md R20). -/
def WritesZNO (i : Instr) : Prop :=
  categoryOf i.opcode = .arithmetic ∨ i.opcode ∈ ([0x60, 0x61, 0x62, 0x66] : List Byte)

/-- The effects an instruction can have on the state `s`, by the pieces of state they write. The opcodes named are
those of the writers of that piece (10_state.md R20, R21, R25, R26, R29, R32). -/
inductive ExecEffect (i : Instr) (s : State) : State → Prop
  | raises (k : FaultKind) (info : BitVec 32) : ExecEffect i s (s.raise k info)
  | halts : ExecEffect i s { s with run := .halted }
  | yields {f : Format} (hf : Completes i f) : ExecEffect i s { s.advance f with run := .yielded }
  /-- Write registers, or none, and go on to the next instruction. -/
  | writesRegs (regs : Vector Byte 16) {f : Format} (hf : Completes i f) :
      ExecEffect i s (State.advance { s with regs := regs } f)
  | writesResult (d : Reg) (r : Byte × Bool) {f : Format} (hi : WritesZNO i) (hf : Completes i f) :
      ExecEffect i s ((s.setResult d r).advance f)
  /-- Write registers, or none, and transfer control to a code target. -/
  | jumps (regs : Vector Byte 16) {target : Addr} (ht : target.toNat < 2 ^ 24) :
      ExecEffect i s (State.jump { s with regs := regs } target)
  | calls {target : Addr} (hi : i.opcode = 0x15) (hf : Completes i .da) (ht : target.toNat < 2 ^ 24) :
      ExecEffect i s
        { s with cs := s.cs ++ [⟨s.pc + 4, s.fp⟩], fp := BitVec.ofNat 32 s.vs.length, pc := target }
  | returns {fr : Frame} (hi : i.opcode = 0x02) (hfr : fr ∈ s.cs) :
      ExecEffect i s { s with cs := s.cs.dropLast, fp := fr.fp, pc := fr.ret }
  | writesStack (regs : Vector Byte 16) (vs : List Byte) {f : Format} (hi : i.opcode = 0x24 ∨ i.opcode = 0x25)
      (hf : Completes i f) : ExecEffect i s (State.advance { s with regs := regs, vs := vs } f)
  | stores {a : Addr} {vs : List Byte} {u : State} {f : Format} (hi : i.opcode = 0x23 ∨ i.opcode = 0x27)
      (hvs : vs ≠ []) (hu : s.memWrite a vs = .ok u) (hf : Completes i f) : ExecEffect i s (u.advance f)
  | senses (regs : Vector Byte 16) (e : Bool) (pos : Nat) {f : Format} (hi : i.opcode = 0xC0)
      (hf : Completes i f) :
      ExecEffect i s (State.advance
        { s with regs := regs, sr := { s.sr with e := e }, instream := { s.instream with pos := pos } } f)
  | acts (actuator : Vector Byte 16) (entry : LogEntry) {f : Format} (hi : i.opcode = 0xC1)
      (hf : Completes i f) :
      ExecEffect i s (State.advance { s with actuator := actuator, outlog := s.outlog ++ [entry] } f)

theorem codeTarget24_lt (t : BitVec 24) : (codeTarget24 t).toNat < 2 ^ 24 := by
  have := t.isLt
  simp only [codeTarget24, BitVec.toNat_setWidth]; omega

theorem codeTarget16_lt (t : BitVec 16) : (codeTarget16 t).toNat < 2 ^ 24 := by
  have := t.isLt
  simp only [codeTarget16, BitVec.toNat_setWidth]; omega

/-- A conditional jump goes to its target or to the next instruction. -/
theorem ExecEffect.jumpIf {i : Instr} (s : State) (c : Bool) (t : BitVec 24) (hf : Completes i .da) :
    ExecEffect i s (s.jumpIf c (codeTarget24 t)) := by
  cases c with
  | false => exact .writesRegs s.regs hf
  | true => exact .jumps s.regs (codeTarget24_lt t)

/-- An instruction that ends in an attempt has an effect if its successful end is one. -/
theorem ExecEffect.attempt {i : Instr} {s : State} {α : Type} {r : Except Raised α} {effect : α → State}
    (h : ∀ v, r = .ok v → ExecEffect i s (effect v)) : ∃ t, s.attempt r effect = .next t ∧ ExecEffect i s t := by
  cases r with
  | ok v => exact ⟨_, rfl, h v rfl⟩
  | error e => exact ⟨_, rfl, .raises e.kind e.info⟩

/-- Every instruction answers a next state, by one of the listed effects. -/
theorem exec_answers (i : Instr) (s : State) : ∃ t, exec i s = .next t ∧ ExecEffect i s t := by
  cases i with
  | nop | emerge | collapse | sync | broadcast | receive | entangle | hintCpu | hintGpu | hintNpu | hintFpga
  | hintDsp | batchBegin | batchEnd | prefetch | fence => exact ⟨_, rfl, .writesRegs s.regs ⟨rfl, rfl⟩⟩
  | trans | pipe | lerp | slerp | grad | descent | promote | demote => exact ⟨_, rfl, .raises _ _⟩
  | hlt => exact ⟨_, rfl, .halts⟩
  | yield => exact ⟨_, rfl, .yields ⟨rfl, rfl⟩⟩
  | jmp t => exact ⟨_, rfl, .jumps s.regs (codeTarget24_lt t)⟩
  | jz t | jn t | jc t | jo t => exact ⟨_, rfl, .jumpIf s _ t ⟨rfl, rfl⟩⟩
  | loop c t =>
    refine ⟨_, rfl, ?_⟩
    split
    · exact .jumps _ (codeTarget16_lt t)
    · exact .writesRegs _ ⟨rfl, rfl⟩
  | call t =>
    by_cases hfull : s.cs.length = s.cfg.cstackCap
    · exact ⟨_, if_pos hfull, .raises _ _⟩
    · exact ⟨_, if_neg hfull, .calls rfl ⟨rfl, rfl⟩ (codeTarget24_lt t)⟩
  | ret =>
    simp only [exec, execRet]
    cases htop : s.cs.getLast? with
    | none => exact ⟨_, rfl, .raises _ _⟩
    | some fr => exact ⟨_, rfl, .returns rfl (List.mem_of_getLast? htop)⟩
  | push r =>
    by_cases hfull : s.vs.length = s.cfg.vstackCap
    · exact ⟨_, if_pos hfull, .raises _ _⟩
    · exact ⟨_, if_neg hfull, .writesStack s.regs _ (.inl rfl) ⟨rfl, rfl⟩⟩
  | pop d =>
    simp only [exec, execPop]
    cases s.vs.getLast? with
    | none => exact ⟨_, rfl, .raises _ _⟩
    | some v => exact ⟨_, rfl, .writesStack _ _ (.inr rfl) ⟨rfl, rfl⟩⟩
  | mov | movi | rotl | fold | spread => exact ⟨_, rfl, .writesRegs _ ⟨rfl, rfl⟩⟩
  | load | lstate => exact ExecEffect.attempt fun _ _ => .writesRegs _ ⟨rfl, rfl⟩
  | store => exact ExecEffect.attempt fun _ hu => .stores (.inl rfl) (List.cons_ne_nil _ _) hu ⟨rfl, rfl⟩
  | sstate => exact ExecEffect.attempt fun _ hu => .stores (.inr rfl) (List.cons_ne_nil _ _) hu ⟨rfl, rfl⟩
  | mul | div | pow | inv | conj | add | sub | mag | phase | scale | rotate =>
    exact ⟨_, rfl, .writesResult _ _ (.inl (by simp [categoryOf, Instr.opcode])) ⟨rfl, rfl⟩⟩
  | root d n =>
    by_cases hn : n = 0
    · exact ⟨_, if_pos hn, .raises _ _⟩
    · exact ⟨_, if_neg hn, .writesResult _ _ (.inl (by simp [categoryOf, Instr.opcode])) ⟨rfl, rfl⟩⟩
  | xorl | andl | orl | gather =>
    exact ⟨_, rfl, .writesResult _ _ (.inr (by simp [Instr.opcode])) ⟨rfl, rfl⟩⟩
  | sense d ix =>
    simp only [exec, execSense]
    split
    · exact ⟨_, rfl, .raises _ _⟩
    · split
      · exact ⟨_, rfl, .senses _ _ _ rfl ⟨rfl, rfl⟩⟩
      · split <;> exact ⟨_, rfl, .senses _ _ s.instream.pos rfl ⟨rfl, rfl⟩⟩
  | act ix r =>
    by_cases hix : 16 ≤ ix.toNat
    · exact ⟨_, if_pos hix, .raises _ _⟩
    · exact ⟨_, if_neg hix, .acts _ _ rfl ⟨rfl, rfl⟩⟩

/-- Once, everything an instruction can do. -/
theorem exec_effect {i : Instr} {s t : State} (h : exec i s = .next t) : ExecEffect i s t := by
  obtain ⟨u, hu, heffect⟩ := exec_answers i s
  cases hu.symm.trans h
  exact heffect

/-- Once, everything a step that answers `t` can do. -/
theorem step_effect {s t : State} (h : step s = .next t) :
    t = s ∨ (∃ k info, t = s.raise k info) ∨ ∃ i, s.fetchInstr = .ok i ∧ ExecEffect i s t := by
  rcases step_cases s _ h with ⟨-, hidle⟩ | ⟨-, e, -, hfault⟩ | ⟨-, i, hi, hexec⟩
  · cases hidle
    exact .inl rfl
  · cases hfault
    obtain ⟨k, info, hraise, -⟩ := s.raiseDecode_cases e
    exact .inr (.inl ⟨k, info, hraise⟩)
  · exact .inr (.inr ⟨i, hi, exec_effect hexec.symm⟩)

/-! ### Data writes -/

/-- A data write changes memory and `HEAP_LEN` only, and never shortens the heap (20_memory.md R54). -/
theorem memWrite_frame {s u : State} {a : Addr} {vs : List Byte} (hvs : vs ≠ []) (hu : s.memWrite a vs = .ok u) :
    u = { s with mem := u.mem, heapLen := u.heapLen } ∧ s.heapLen ≤ u.heapLen := by
  rcases s.memWrite_ok u a vs hvs hu with ⟨-, -, rfl⟩ | ⟨-, -, rfl⟩
  · rw [State.growHeap_eq]
    exact ⟨rfl, le_max_left _ _⟩
  · exact ⟨rfl, le_refl _⟩

/-- A data write reaches the StateHeap or the ports, so no byte of the Code segment (20_memory.md R44, R50). -/
theorem memWrite_read_code {s u : State} {a : Addr} {vs : List Byte} (hwf : Memory.wf s.mem) (hvs : vs ≠ [])
    (hu : s.memWrite a vs = .ok u) {b : Nat} (hb : b < 2 ^ 28) : u.mem.read b = s.mem.read b := by
  have ha := toNat_of_segment a
  rcases s.memWrite_ok u a vs hvs hu with ⟨hseg, -, rfl⟩ | ⟨hseg, -, rfl⟩
  · have hbase : a.toNat / 2 ^ 28 = 1 := segmentOf_eq_some a _ hseg
    rw [State.storeBytes_mem, Memory.read_writeBytes _ _ _ (State.growHeap_wf s _ hwf), if_neg (by omega),
      State.growHeap_read, if_neg (by unfold heapBase; omega)]
  · have hbase : a.toNat / 2 ^ 28 = 15 := segmentOf_eq_some a _ hseg
    rw [State.storeBytes_mem, Memory.read_writeBytes _ _ _ hwf, if_neg (by omega)]

/-! ### What no step changes -/

/-- From `s` to `t` the code, `MODE`, the flag `C`, the sensor slots, the stream's bytes and the configuration are
kept. -/
def KeepsCodeAndSettings (s t : State) : Prop :=
  (∀ a : Nat, a < 2 ^ 28 → t.mem.read a = s.mem.read a) ∧ t.codeLen = s.codeLen ∧ t.mode = s.mode ∧
  t.sr.c = s.sr.c ∧ t.sensor = s.sensor ∧ t.instream.attached = s.instream.attached ∧
  t.instream.bytes = s.instream.bytes ∧ t.cfg = s.cfg

/-- Only a data write touches memory, and it spares the code; no effect touches the rest. -/
theorem ExecEffect.keepsCodeAndSettings {i : Instr} {s t : State} (h : ExecEffect i s t) (hwf : Memory.wf s.mem) :
    KeepsCodeAndSettings s t := by
  cases h with
  | stores _ hvs hu _ =>
    have hcode := fun b (hb : b < 2 ^ 28) => memWrite_read_code hwf hvs hu hb
    rw [(memWrite_frame hvs hu).1]
    exact ⟨hcode, rfl, rfl, rfl, rfl, rfl, rfl, rfl⟩
  | _ => exact ⟨fun _ _ => rfl, rfl, rfl, rfl, rfl, rfl, rfl, rfl⟩

/-- Settles O54. -/
theorem stepLeavesCodeAndSettings : Obligations.StepLeavesCodeAndSettings := by
  intro s t hwf h
  rcases step_effect h with rfl | ⟨k, info, rfl⟩ | ⟨i, -, heffect⟩
  · exact ⟨fun _ _ => rfl, rfl, rfl, rfl, rfl, rfl, rfl, rfl⟩
  · exact ⟨fun _ _ => rfl, rfl, rfl, rfl, rfl, rfl, rfl, rfl⟩
  · exact heffect.keepsCodeAndSettings hwf

/-! ### The writers of each piece of state -/

section Writers

variable {i : Instr} {s t : State}

/-- `E` and the stream: only `SENSE` (10_state.md R20). -/
theorem ExecEffect.sense_only (h : ExecEffect i s t) (hi : i.opcode ≠ 0xC0) :
    t.sr.e = s.sr.e ∧ t.instream = s.instream := by
  cases h with
  | senses _ _ _ hsense _ => exact absurd hsense hi
  | stores _ hvs hu _ => rw [(memWrite_frame hvs hu).1]; exact ⟨rfl, rfl⟩
  | _ => exact ⟨rfl, rfl⟩

/-- `FP` and the call stack: only `CALL` and `RET` (10_state.md R21, R26). -/
theorem ExecEffect.call_ret_only (h : ExecEffect i s t) (hcall : i.opcode ≠ 0x15) (hret : i.opcode ≠ 0x02) :
    t.fp = s.fp ∧ t.cs = s.cs := by
  cases h with
  | calls hi _ _ => exact absurd hi hcall
  | returns hi _ => exact absurd hi hret
  | stores _ hvs hu _ => rw [(memWrite_frame hvs hu).1]; exact ⟨rfl, rfl⟩
  | _ => exact ⟨rfl, rfl⟩

/-- The value stack: only `PUSH` and `POP` (10_state.md R25). -/
theorem ExecEffect.push_pop_only (h : ExecEffect i s t) (hpush : i.opcode ≠ 0x24) (hpop : i.opcode ≠ 0x25) :
    t.vs = s.vs := by
  cases h with
  | writesStack _ _ hi _ => exact absurd hi (not_or.2 ⟨hpush, hpop⟩)
  | stores _ hvs hu _ => rw [(memWrite_frame hvs hu).1]; rfl
  | _ => rfl

/-- The output log and the actuators: only `ACT` (10_state.md R32). -/
theorem ExecEffect.act_only (h : ExecEffect i s t) (hact : i.opcode ≠ 0xC1) :
    t.outlog = s.outlog ∧ t.actuator = s.actuator := by
  cases h with
  | acts _ _ hi _ => exact absurd hi hact
  | stores _ hvs hu _ => rw [(memWrite_frame hvs hu).1]; exact ⟨rfl, rfl⟩
  | _ => exact ⟨rfl, rfl⟩

/-- `Z`, `N` and `O`: only the instructions with a flagged result. -/
theorem ExecEffect.zno_only (h : ExecEffect i s t) (hi : ¬ WritesZNO i) :
    t.sr.z = s.sr.z ∧ t.sr.n = s.sr.n ∧ t.sr.o = s.sr.o := by
  cases h with
  | writesResult _ _ hzno _ => exact absurd hzno hi
  | stores _ hvs hu _ => rw [(memWrite_frame hvs hu).1]; exact ⟨rfl, rfl, rfl⟩
  | _ => exact ⟨rfl, rfl, rfl⟩

/-- `HEAP_LEN`: only `STORE` and `SSTATE` (10_state.md R29). -/
theorem ExecEffect.heapLen_store_only (h : ExecEffect i s t) (hstore : i.opcode ≠ 0x23)
    (hsstate : i.opcode ≠ 0x27) : t.heapLen = s.heapLen := by
  cases h with
  | stores hi _ _ _ => exact absurd hi (not_or.2 ⟨hstore, hsstate⟩)
  | _ => rfl

theorem ExecEffect.heapLen_le (h : ExecEffect i s t) : s.heapLen ≤ t.heapLen := by
  cases h with
  | stores _ hvs hu _ => exact (memWrite_frame hvs hu).2
  | _ => exact le_refl _

/-- The output log grows at its end, by at most one entry (10_state.md R32). -/
theorem ExecEffect.outlog_append (h : ExecEffect i s t) :
    ∃ l : List LogEntry, t.outlog = s.outlog ++ l ∧ l.length ≤ 1 := by
  cases h with
  | acts _ entry _ _ => exact ⟨[entry], rfl, le_refl _⟩
  | stores _ hvs hu _ => rw [(memWrite_frame hvs hu).1]; exact ⟨[], (List.append_nil _).symm, Nat.zero_le _⟩
  | _ => exact ⟨[], (List.append_nil _).symm, Nat.zero_le _⟩

end Writers

/-- Settles O55. -/
theorem eachStateHasItsWriters : Obligations.EachStateHasItsWriters := by
  intro i s t h
  have heffect := exec_effect h
  exact ⟨heffect.sense_only, heffect.call_ret_only, heffect.push_pop_only, heffect.act_only,
    fun harith hreduce => heffect.zno_only (not_or.2 ⟨harith, hreduce⟩), heffect.heapLen_store_only,
    heffect.heapLen_le, heffect.outlog_append⟩

/-! ### A decoded instruction was fetched whole -/

/-- Whatever instruction a decode answers has the opcode byte `op`. -/
def DecodesTo (op : Byte) (r : Except DecodeError Instr) : Prop := ∀ i, r = .ok i → i.opcode = op

theorem decodesTo_ok {op : Byte} {i : Instr} : DecodesTo op (.ok i) ↔ i.opcode = op := by
  simp [DecodesTo]

theorem decodesTo_error (op : Byte) (e : DecodeError) : DecodesTo op (.error e) := by
  simp [DecodesTo]

theorem decodesTo_ite {op : Byte} {c : Prop} [Decidable c] {r r' : Except DecodeError Instr} :
    DecodesTo op (if c then r else r') ↔ (c → DecodesTo op r) ∧ (¬c → DecodesTo op r') := by
  split <;> simp [*]

theorem decodesTo_withReg {op : Byte} {k : Nat} {b : Byte} {f : Reg → Except DecodeError Instr} :
    DecodesTo op (withReg k b f) ↔ (b.toNat < 16 → DecodesTo op (f (lowNibble b))) := by
  simp [withReg, decodesTo_ite, decodesTo_error]

theorem decodesTo_decodeOperands (op b1 b2 b3 : Byte) : DecodesTo op (decodeOperands op b1 b2 b3) := by
  unfold decodeOperands
  split
  case h_36 hop =>
    cases foldModeOf b1 with
    | none => exact decodesTo_error _ _
    | some m => exact decodesTo_ok.2 (BitVec.eq_of_toNat_eq hop.symm)
  all_goals
    rename_i hop
    simp [decodesTo_withReg, decodesTo_ite, decodesTo_ok, decodesTo_error, Instr.opcode, ← BitVec.toNat_inj, hop]

theorem opcode_of_unsupportedOf {op : Byte} {i : Instr} (h : unsupportedOf op = some i) : i.opcode = op := by
  unfold unsupportedOf at h
  split at h <;> cases h
  all_goals exact BitVec.eq_of_toNat_eq (Eq.symm ‹_›)

theorem opcode_of_inertOf {op : Byte} {i : Instr} (h : inertOf op = some i) : i.opcode = op := by
  unfold inertOf at h
  split at h <;> cases h
  all_goals exact BitVec.eq_of_toNat_eq (Eq.symm ‹_›)

/-- The decoder's order (30_encoding.md R72): an opcode without a format, then class "u", then a missing byte, then the
inert instructions, then the operands. -/
theorem decodesTo_decode (op : Byte) (ops : List Byte) : DecodesTo op (decode (op :: ops)) := by
  cases hf : formatOf op with
  | none => simp only [decode, hf, decodesTo_error]
  | some f =>
    cases hu : unsupportedOf op with
    | some j => exact decode_unsupported ops hf hu ▸ decodesTo_ok.2 (opcode_of_unsupportedOf hu)
    | none =>
      by_cases hl : ops.length + 1 < f.width
      · exact decode_short hf hu hl ▸ decodesTo_error _ _
      · cases hi : inertOf op with
        | some j => exact decode_inert hf hu hi (not_lt.1 hl) ▸ decodesTo_ok.2 (opcode_of_inertOf hi)
        | none => exact decode_executes hf hu hi (not_lt.1 hl) ▸ decodesTo_decodeOperands _ _ _ _

/-- An instruction that completes is decoded only where all bytes of its format are there. -/
theorem width_le_of_decode {bs : List Byte} {i : Instr} {f : Format} (h : decode bs = .ok i)
    (hf : Completes i f) : f.width ≤ bs.length := by
  obtain ⟨hformat, hclass⟩ := hf
  cases bs with
  | nil => cases h
  | cons op ops =>
    have hop : i.opcode = op := decodesTo_decode op ops i h
    rw [hop] at hformat hclass
    by_contra hshort
    rw [decode_short hformat hclass (not_le.1 hshort)] at h
    cases h

/-- A fetched byte lies in the loaded code, where addresses are offsets (20_memory.md R47). -/
theorem fetchByte_lt {s : State} {a : Addr} {b : Byte} (h : s.fetchByte a = some b) :
    a.toNat < 2 ^ 28 ∧ a.toNat < s.codeLen := by
  obtain ⟨⟨hseg, hoff⟩, -⟩ := (s.fetchByte_eq_some a b).1 h
  have hbase : a.toNat / 2 ^ 28 = 0 := segmentOf_eq_some a _ hseg
  unfold offsetOf at hoff
  omega

/-- The bytes of a fetch window stand one after the other in the loaded code. -/
theorem fetchWindow_end_le (s : State) (a : Addr) (n : Nat) (h : s.fetchWindow a n ≠ []) :
    a.toNat + (s.fetchWindow a n).length ≤ s.codeLen := by
  induction n generalizing a with
  | zero => exact absurd rfl h
  | succ n ih =>
    cases hb : s.fetchByte a with
    | none => exact absurd (s.fetchWindow_succ_none a n hb) h
    | some b =>
      obtain ⟨hseg, hlen⟩ := fetchByte_lt hb
      rw [s.fetchWindow_succ_some a n b hb, List.length_cons]
      by_cases hrest : s.fetchWindow (a + 1) n = []
      · rw [hrest, List.length_nil]; omega
      · have hnext : (a + 1).toNat = a.toNat + 1 := by
          rw [BitVec.toNat_add_of_lt] <;> simp; omega
        have := ih (a + 1) hrest
        omega

/-- The instruction at `pc`, if it can complete, ends inside the loaded code. -/
theorem pc_add_width_le {s : State} {i : Instr} {f : Format} (h : s.fetchInstr = .ok i) (hf : Completes i f) :
    s.pc.toNat + f.width ≤ s.codeLen := by
  have hwidth : f.width ≤ (s.fetchWindow s.pc 4).length := width_le_of_decode h hf
  have hpos : 0 < f.width := by cases f <;> decide
  have := fetchWindow_end_le s s.pc 4 (List.length_pos_iff.1 (by omega))
  omega

/-! ### `pc` stays bounded -/

/-- No effect takes `pc` or a return address beyond `2^24`, if the instruction ends inside the loaded code. -/
theorem ExecEffect.pcBounded {i : Instr} {s t : State} (h : ExecEffect i s t) (hs : s.PcBounded)
    (hfits : ∀ f, Completes i f → s.pc.toNat + f.width ≤ s.codeLen) : t.PcBounded := by
  obtain ⟨hcode, hpc, hcs⟩ := hs
  have hnext : ∀ f, Completes i f → (s.pc + BitVec.ofNat 32 f.width).toNat ≤ Config.codeMax := by
    intro f hf
    have := hfits f hf
    have := Nat.mod_le f.width (2 ^ 32)
    have := Nat.mod_le (s.pc.toNat + f.width % 2 ^ 32) (2 ^ 32)
    simp only [BitVec.toNat_add, BitVec.toNat_ofNat]
    omega
  cases h with
  | raises | halts => exact ⟨hcode, hpc, hcs⟩
  | yields hf | writesRegs _ hf | writesResult _ _ _ hf | writesStack _ _ _ hf | senses _ _ _ _ hf
  | acts _ _ _ hf => exact ⟨hcode, hnext _ hf, hcs⟩
  | jumps _ ht => exact ⟨hcode, Nat.le_of_lt ht, hcs⟩
  | calls _ hf ht =>
    refine ⟨hcode, Nat.le_of_lt ht, fun fr hfr => ?_⟩
    rcases List.mem_append.1 hfr with hold | hnew
    · exact hcs fr hold
    · cases List.mem_singleton.1 hnew
      exact hnext _ hf
  | returns _ hfr => exact ⟨hcode, hcs _ hfr, fun fr h => hcs fr (List.mem_of_mem_dropLast h)⟩
  | stores _ hvs hu hf =>
    rw [(memWrite_frame hvs hu).1]
    exact ⟨hcode, hnext _ hf, hcs⟩

/-- Settles O53: a step goes past an instruction only if all its bytes were fetched from the code, and elsewhere it
goes to a 24-bit or 16-bit target or to a saved return address. -/
theorem stepKeepsPcBounded : Obligations.StepKeepsPcBounded := by
  intro s t hs h
  rcases step_effect h with rfl | ⟨k, info, rfl⟩ | ⟨i, hi, heffect⟩
  · exact hs
  · exact hs
  · exact heffect.pcBounded hs fun _ => pc_add_width_le hi

end Sys2Proof.Machine
end

section
/-! SUPPORT and PROOFS. Memory and addresses (20_memory.md): the unmapped selectors, the end of a fetch, the growth
of the heap, and the state invariant that every step keeps. -/

namespace Sys2Proof.Machine

/-! ### Unmapped segments (R53, R56) -/

/-- A selector from 3 to 14 names the TransformTable or no segment. -/
theorem segmentOf_of_selector_3_to_14 {a : Addr} (hlo : 3 ≤ a.toNat / 2 ^ 28) (hhi : a.toNat / 2 ^ 28 ≤ 14) :
    segmentOf a = some .transformTable ∨ segmentOf a = none := by
  cases hseg : segmentOf a with
  | none => exact .inr rfl
  | some g =>
    have hsel := segmentOf_eq_some a g hseg
    cases g with
    | transformTable => exact .inl rfl
    | _ => simp only at hsel; omega

/-- Settles O39: the TransformTable is empty (`TT_SIZE` is 0), and the other selectors name no segment. -/
theorem unmappedSegmentsAreOutOfBounds : Obligations.UnmappedSegmentsAreOutOfBounds := by
  intro s a n vs hlo hhi hn hvs
  have hlen : 0 < vs.length := List.length_pos_iff.2 hvs
  rcases segmentOf_of_selector_3_to_14 hlo hhi with hseg | hseg
  · have hread : Config.ttSize < offsetOf a + n := by unfold Config.ttSize; omega
    have hwrite : Config.ttSize < offsetOf a + vs.length := by unfold Config.ttSize; omega
    simp only [State.memRead, State.memWrite, State.readExtent, hseg, if_pos hread, if_pos hwrite, and_self]
  · simp only [State.memRead, State.memWrite, hseg, and_self]

/-! ### The end of a fetch (R47) -/

theorem segmentOf_eq_code_iff (a : Addr) : segmentOf a = some .code ↔ a.toNat / 2 ^ 28 = 0 :=
  ⟨segmentOf_eq_some a .code, fun h => by simp only [segmentOf, h]⟩

/-- The window holds exactly the bytes before the first one that cannot be fetched. -/
theorem fetchWindow_length_eq {s : State} {a : Addr} {k n : Nat} (hk : k ≤ n)
    (hbytes : ∀ j < k, s.fetchByte (a + BitVec.ofNat 32 j) ≠ none)
    (hmissing : s.fetchByte (a + BitVec.ofNat 32 k) = none) : (s.fetchWindow a n).length = k := by
  induction k generalizing a n with
  | zero =>
    rw [BitVec.add_zero] at hmissing
    cases n with
    | zero => rfl
    | succ n => rw [s.fetchWindow_succ_none a n hmissing, List.length_nil]
  | succ k ih =>
    obtain ⟨n, rfl⟩ : ∃ m, n = m + 1 := ⟨n - 1, by omega⟩
    have hshift (j : Nat) : a + 1 + BitVec.ofNat 32 j = a + BitVec.ofNat 32 (j + 1) := by
      rw [BitVec.ofNat_add]; ac_rfl
    obtain ⟨b, hb⟩ := Option.ne_none_iff_exists'.1 (hbytes 0 (Nat.succ_pos k))
    rw [BitVec.add_zero] at hb
    have htail : (s.fetchWindow (a + 1) n).length = k :=
      ih (Nat.le_of_succ_le_succ hk) (fun j hj => hshift j ▸ hbytes (j + 1) (Nat.succ_lt_succ hj))
        (hshift k ▸ hmissing)
    rw [s.fetchWindow_succ_some a n b hb, List.length_cons, htail]

theorem unsupportedOf_eq_none {op : Byte} {f : Format} (hf : formatOf op = some f)
    (hclass : classOf op ≠ some .unsupported) : unsupportedOf op = none := by
  cases hu : unsupportedOf op with
  | none => rfl
  | some i => exact absurd (by simp [classOf, hf, hu]) hclass

/-- An instruction that ends before its format does is missing its first absent byte. -/
theorem fetchInstr_missing {s : State} {op : Byte} {f : Format} {k : Nat} (hop : s.fetchByte s.pc = some op)
    (hf : formatOf op = some f) (hclass : classOf op ≠ some .unsupported) (hk : k < f.width)
    (hlen : (s.fetchWindow s.pc 4).length = k) : s.fetchInstr = .error (.missing k) := by
  have hwindow := s.fetchWindow_succ_some s.pc 3 op hop
  rw [hwindow, List.length_cons] at hlen
  unfold State.fetchInstr
  rw [hwindow, decode_short hf (unsupportedOf_eq_none hf hclass) (hlen ▸ hk), hlen]

/-- A step onto bytes that are no instruction raises the decode fault. -/
theorem step_of_fetchInstr_error {s : State} {e : DecodeError} (hrun : s.run = .running)
    (he : s.fetchInstr = .error e) : step s = .next (s.raiseDecode e) := by
  simp only [step, hrun, he]

/-- A step onto an instruction without its byte `k` faults at that byte and does nothing else. -/
theorem step_raises_missing {s : State} {k : Nat} (hrun : s.run = .running)
    (he : s.fetchInstr = .error (.missing k)) :
    RaisedOnly s (step s) .addressOutOfBounds (s.pc + BitVec.ofNat 32 k) :=
  ⟨_, step_of_fetchInstr_error hrun he, rfl, rfl, rfl⟩

/-- Settles O8: the fetch window ends at the first missing byte, and the decoder asks for that one. -/
theorem fetchStopsAtFirstMissingByte : Obligations.FetchStopsAtFirstMissingByte := by
  refine ⟨fun s a => ?_, fun s hrun hpc => ?_, fun s op f k hrun hop hf hclass _ hk hbytes hmissing => ?_⟩
  · simp only [State.fetchByte, segmentOf_eq_code_iff, offsetOf]
  · have hnone : s.fetchInstr = .error (.missing 0) := by
      rw [State.fetchInstr, s.fetchWindow_succ_none s.pc 3 hpc]; rfl
    simpa using step_raises_missing hrun hnone
  · have hwidth : f.width ≤ 4 := by cases f <;> decide
    have hpresent : ∀ j < k, s.fetchByte (s.pc + BitVec.ofNat 32 j) ≠ none := by
      intro j hj
      cases j with
      | zero => simp [hop]
      | succ j => exact hbytes (j + 1) (Nat.succ_pos j) hj
    have hlen := fetchWindow_length_eq (n := 4) (by omega) hpresent hmissing
    exact step_raises_missing hrun (fetchInstr_missing hop hf hclass hk hlen)

/-! ### The growth of the heap (R54) -/

/-- The heap state that holds the last of `n` bytes stored from `a` up. -/
def lastState (a : Addr) (n : Nat) : Nat := (offsetOf a + n - 1) / 16

/-- A heap write at or beyond the capacity overflows. -/
theorem memWrite_heapOverflow {s : State} {a : Addr} {vs : List Byte} (hseg : segmentOf a = some .stateHeap)
    (hcap : s.cfg.heapCap ≤ lastState a vs.length) : s.memWrite a vs = .error ⟨.heapOverflow, a⟩ := by
  simp only [State.memWrite, hseg]
  exact if_pos hcap

/-- A heap write below the capacity grows the heap to its last byte's state, then stores. -/
theorem memWrite_stateHeap {s : State} {a : Addr} {vs : List Byte} (hseg : segmentOf a = some .stateHeap)
    (hcap : lastState a vs.length < s.cfg.heapCap) :
    s.memWrite a vs = .ok ((s.growHeap (lastState a vs.length + 1)).storeBytes a vs) := by
  simp only [State.memWrite, hseg]
  exact if_neg (not_le.2 hcap)

@[simp] theorem growHeap_heapLen (s : State) (len : Nat) : (s.growHeap len).heapLen = max s.heapLen len := by
  rw [State.growHeap_eq]

/-- Settles O40: the stored bytes lie over the vacuum states, and these over the old memory. -/
theorem heapGrowsByVacuumStates : Obligations.HeapGrowsByVacuumStates := by
  intro s a vs hwf hseg _
  refine ⟨memWrite_heapOverflow hseg, fun hcap => ⟨_, memWrite_stateHeap hseg hcap, ?_, fun b => ?_⟩⟩
  · rw [State.storeBytes_heapLen, growHeap_heapLen]; rfl
  · rw [State.storeBytes_mem, Memory.read_writeBytes _ _ _ (s.growHeap_wf _ hwf), s.growHeap_read]; rfl

/-! ### Memory inside the extents (R44) -/

/-- Growing the heap takes no address out of the extents. -/
theorem mapped_growHeap {s : State} (len : Nat) {b : Nat} (h : s.Mapped b) : (s.growHeap len).Mapped b := by
  rw [State.growHeap_eq]
  rcases h with hcode | ⟨hlo, hhi⟩ | hport
  · exact .inl hcode
  · exact .inr (.inl ⟨hlo, lt_of_lt_of_le hhi (by simp only; omega)⟩)
  · exact .inr (.inr hport)

/-- Growing the heap only takes cells out of memory. -/
theorem mem_of_mem_growHeap {s : State} {len : Nat} {x : Host.Cell} (h : x ∈ (s.growHeap len).mem) : x ∈ s.mem := by
  unfold State.growHeap at h
  split at h
  · exact ((Memory.mem_clear _ _ _ x).1 h).1
  · exact h

theorem growHeap_memInv {s : State} (len : Nat) (h : s.MemInv) : (s.growHeap len).MemInv :=
  ⟨s.growHeap_wf len h.1, fun x hx => mapped_growHeap len (h.2 x (mem_of_mem_growHeap hx))⟩

/-- Storing bytes inside the extents keeps memory inside them. -/
theorem storeBytes_memInv {s : State} {a : Addr} {vs : List Byte} (h : s.MemInv)
    (hmapped : ∀ b, a.toNat ≤ b → b < a.toNat + vs.length → s.Mapped b) : (s.storeBytes a vs).MemInv := by
  obtain ⟨hwf, hlisted⟩ := h
  refine ⟨Memory.writeBytes_wf _ _ _ hwf, fun x hx => ?_⟩
  rcases Memory.mem_writeBytes _ _ _ x hx with ⟨hlo, hhi⟩ | hold
  · exact hmapped x.1 hlo hhi
  · exact hlisted x hold

/-- A data write lists only addresses of the heap, grown as far as needed, or of the ports. -/
theorem memWrite_memInv {s u : State} {a : Addr} {vs : List Byte} (hvs : vs ≠ []) (hu : s.memWrite a vs = .ok u)
    (h : s.MemInv) : u.MemInv := by
  have haddr := toNat_of_segment a
  rcases s.memWrite_ok u a vs hvs hu with ⟨hseg, -, rfl⟩ | ⟨hseg, hports, rfl⟩
  · have hbase : a.toNat / 2 ^ 28 = 1 := segmentOf_eq_some a _ hseg
    refine storeBytes_memInv (growHeap_memInv _ h) fun b hlo hhi => .inr (.inl ?_)
    rw [growHeap_heapLen]
    unfold heapBase
    omega
  · have hbase : a.toNat / 2 ^ 28 = 15 := segmentOf_eq_some a _ hseg
    refine storeBytes_memInv h fun b hlo hhi => .inr (.inr ?_)
    unfold ioBase
    omega

/-- A data write keeps the heap inside its capacity. -/
theorem memWrite_heapLen_le {s u : State} {a : Addr} {vs : List Byte} (hvs : vs ≠ [])
    (hu : s.memWrite a vs = .ok u) (h : s.heapLen ≤ s.cfg.heapCap) : u.heapLen ≤ s.cfg.heapCap := by
  rcases s.memWrite_ok u a vs hvs hu with ⟨-, hcap, rfl⟩ | ⟨-, -, rfl⟩
  · rw [State.storeBytes_heapLen, growHeap_heapLen]
    exact max_le h hcap
  · exact h

/-! ### Each part of the invariant under one executed instruction -/

section Invariant

variable {i : Instr} {s t : State}

theorem ExecEffect.memInv (h : ExecEffect i s t) (hs : s.MemInv) : t.MemInv := by
  cases h with
  | stores _ hvs hu _ => exact (memWrite_memInv hvs hu hs :)
  | _ => exact hs

theorem ExecEffect.heapLen_le_cap (h : ExecEffect i s t) (hs : s.heapLen ≤ s.cfg.heapCap) :
    t.heapLen ≤ s.cfg.heapCap := by
  cases h with
  | stores _ hvs hu _ => exact (memWrite_heapLen_le hvs hu hs :)
  | _ => exact hs

/-- Every fault has a code of the list (60_exceptions.md R251). -/
theorem raise_faultInv (s : State) (k : FaultKind) (info : BitVec 32) : (s.raise k info).FaultInv := by
  have hcode : k.code ≠ 0 ∧ k.code.toNat ≤ 11 := by cases k <;> decide
  exact ⟨⟨fun _ => hcode.1, fun _ => rfl⟩, hcode.2, fun h0 => absurd h0 hcode.1⟩

/-- A run state that is not `FAULTED` goes with the empty fault record of a running core. -/
theorem faultInv_of_run (hrun : s.run = .running) (hs : s.FaultInv) (hfault : t.fault = s.fault)
    (ht : t.run ≠ .faulted) : t.FaultInv := by
  obtain ⟨hiff, hbound, hinfo⟩ := hs
  have hcode : s.fault.code = 0 := by
    by_contra hne
    cases hrun.symm.trans (hiff.2 hne)
  unfold State.FaultInv
  rw [hfault]
  exact ⟨⟨fun hf => absurd hf ht, fun hne => absurd hcode hne⟩, hbound, hinfo⟩

theorem ExecEffect.faultInv (h : ExecEffect i s t) (hrun : s.run = .running) (hs : s.FaultInv) : t.FaultInv := by
  cases h with
  | raises k info => exact raise_faultInv s k info
  | halts | yields => exact faultInv_of_run hrun hs rfl nofun
  | stores _ hvs hu _ => rw [(memWrite_frame hvs hu).1]; exact hs
  | _ => exact hs

/-- `PUSH` onto a full value stack faults, so no instruction takes it past its capacity (41_data.md R125). -/
theorem exec_vs_le_cap (h : exec i s = .next t) (hs : s.vs.length ≤ s.cfg.vstackCap) :
    t.vs.length ≤ s.cfg.vstackCap := by
  cases i with
  | push r =>
    simp only [exec, execPush] at h
    split at h <;> cases h
    · exact hs
    · simp only [State.advance_vs, List.length_append, List.length_singleton]
      omega
  | pop d =>
    simp only [exec, execPop] at h
    split at h <;> cases h
    · exact hs
    · simp only [State.advance_vs, List.length_dropLast]
      omega
  | _ => rw [(exec_effect h).push_pop_only (by simp [Instr.opcode]) (by simp [Instr.opcode])]; exact hs

/-- `CALL` onto a full call stack faults, so no instruction takes it past its capacity (40_control.md R109). -/
theorem exec_cs_le_cap (h : exec i s = .next t) (hs : s.cs.length ≤ s.cfg.cstackCap) :
    t.cs.length ≤ s.cfg.cstackCap := by
  cases i with
  | call target =>
    simp only [exec, execCall] at h
    split at h <;> cases h
    · exact hs
    · simp only [List.length_append, List.length_singleton]
      omega
  | ret =>
    simp only [exec, execRet] at h
    split at h <;> cases h
    · exact hs
    · simp only [List.length_dropLast]
      omega
  | _ => rw [((exec_effect h).call_ret_only (by simp [Instr.opcode]) (by simp [Instr.opcode])).2]; exact hs

/-- `SENSE` moves on in the stream only while it has a byte left (46_system_io.md R221). -/
theorem exec_streamInv (h : exec i s = .next t) (hs : s.StreamInv) : t.StreamInv := by
  cases i with
  | sense d ix =>
    simp only [exec, execSense] at h
    split at h
    · cases h
      exact hs
    · split at h
      next hbyte =>
        cases h
        obtain ⟨hattached, hleft⟩ := hbyte
        exact ⟨hleft, fun hdetached => absurd (hattached.symm.trans hdetached) nofun⟩
      next => split at h <;> cases h <;> exact hs
  | _ =>
    unfold State.StreamInv
    rw [((exec_effect h).sense_only (by simp [Instr.opcode])).2]; exact hs

/-- The capacities and the code's extent are no instruction's to change; the heap and the stacks stay below theirs. -/
theorem exec_capInv (h : exec i s = .next t) (hwf : Memory.wf s.mem) (hs : s.CapInv) : t.CapInv := by
  obtain ⟨hlegal, hcode, hheap, hvs, hcs⟩ := hs
  obtain ⟨-, hcodeLen, -, -, -, -, -, hcfg⟩ := (exec_effect h).keepsCodeAndSettings hwf
  unfold State.CapInv
  rw [hcfg, hcodeLen]
  exact ⟨hlegal, hcode, (exec_effect h).heapLen_le_cap hheap, exec_vs_le_cap h hvs, exec_cs_le_cap h hcs⟩

theorem exec_inv (h : exec i s = .next t) (hrun : s.run = .running) (hs : s.Inv) : t.Inv := by
  obtain ⟨hmem, hcap, hfault, hstream⟩ := hs
  have heffect := exec_effect h
  exact ⟨heffect.memInv hmem, exec_capInv h hmem.1 hcap, heffect.faultInv hrun hfault, exec_streamInv h hstream⟩

/-- A fault changes `RUN` and `FAULT` only, and keeps them in step. -/
theorem raise_inv (k : FaultKind) (info : BitVec 32) (hs : s.Inv) : (s.raise k info).Inv := by
  obtain ⟨hmem, hcap, -, hstream⟩ := hs
  exact ⟨hmem, hcap, raise_faultInv s k info, hstream⟩

end Invariant

/-- Settles O51: an idle step changes nothing, a failed decode raises a fault, and an instruction keeps each part of
the invariant. -/
theorem stepKeepsTheInvariant : Obligations.StepKeepsTheInvariant := by
  intro s t hs h
  rcases step_cases s _ h with ⟨-, hidle⟩ | ⟨-, e, -, hdecode⟩ | ⟨hrun, i, -, hexec⟩
  · cases hidle
    exact hs
  · cases hdecode
    obtain ⟨k, info, hraise, -⟩ := s.raiseDecode_cases e
    exact hraise ▸ raise_inv k info hs
  · exact exec_inv hexec.symm hrun hs

end Sys2Proof.Machine
end

section
/-! SUPPORT and PROOFS. The encoding (30_encoding.md): the operand checks of the decoder accept exactly the operand
bytes of the encoder, so that decoding and encoding undo each other. -/

namespace Sys2Proof.Machine

/-! ### The operand fields, from bytes and back (R77 to R82) -/

theorem regByte_lowNibble {b : Byte} (hb : b.toNat < 16) : regByte (lowNibble b) = b := by
  apply BitVec.eq_of_toNat_eq
  simp only [regByte_toNat, lowNibble]
  omega

theorem withReg_of_lt {k : Nat} {b : Byte} (f : Reg → Except DecodeError Instr) (hb : b.toNat < 16) :
    withReg k b f = f (lowNibble b) := if_pos hb

theorem withReg_of_ge {k : Nat} {b : Byte} (f : Reg → Except DecodeError Instr) (hb : 16 ≤ b.toNat) :
    withReg k b f = .error (.illegalOperand k b) := if_neg (not_lt.2 hb)

@[simp] theorem withReg_eq_ok_iff {k : Nat} {b : Byte} {f : Reg → Except DecodeError Instr} {i : Instr} :
    withReg k b f = .ok i ↔ ∃ r, regByte r = b ∧ f r = .ok i := by
  constructor
  · intro h
    rcases Nat.lt_or_ge b.toNat 16 with hb | hb
    · exact ⟨lowNibble b, regByte_lowNibble hb, withReg_of_lt f hb ▸ h⟩
    · rw [withReg_of_ge f hb] at h
      cases h
  · rintro ⟨r, rfl, h⟩
    rw [withReg_regByte, h]

theorem ite_error_eq_ok_iff {c : Prop} [Decidable c] {e : DecodeError} {r : Except DecodeError Instr}
    {i : Instr} : (if c then .error e else r) = .ok i ↔ ¬c ∧ r = .ok i := by
  split <;> simp [*]

theorem bytes24_imm24 (b1 b2 b3 : Byte) : bytes24 (imm24 b1 b2 b3) = [b1, b2, b3] := by
  simp only [bytes24, List.cons.injEq, ← BitVec.toNat_inj, BitVec.extractLsb'_toNat, imm24_toNat,
    Nat.shiftRight_eq_div_pow, and_true]
  omega

theorem bytes16_imm16 (b2 b3 : Byte) : bytes16 (imm16 b2 b3) = [b2, b3] := by
  simp only [bytes16, List.cons.injEq, ← BitVec.toNat_inj, BitVec.extractLsb'_toNat, imm16_toNat,
    Nat.shiftRight_eq_div_pow, and_true]
  omega

@[simp] theorem bytes24_prefix_iff {b1 b2 b3 : Byte} {t : BitVec 24} :
    bytes24 t <+: [b1, b2, b3] ↔ imm24 b1 b2 b3 = t := by
  constructor
  · intro h
    obtain ⟨rfl, rfl, rfl⟩ : _ ∧ _ ∧ _ := by simpa [bytes24] using h
    exact imm24_bytes t
  · rintro rfl
    exact (bytes24_imm24 b1 b2 b3).symm ▸ List.prefix_rfl

@[simp] theorem bytes16_prefix_iff {b2 b3 : Byte} {t : BitVec 16} : bytes16 t <+: [b2, b3] ↔ imm16 b2 b3 = t := by
  constructor
  · intro h
    obtain ⟨rfl, rfl⟩ : _ ∧ _ := by simpa [bytes16] using h
    exact imm16_bytes t
  · rintro rfl
    exact (bytes16_imm16 b2 b3).symm ▸ List.prefix_rfl

@[simp] theorem segReg_eq_iff {b : Byte} {g : BitVec 4} {r : Reg} :
    segReg g r = b ↔ segField b = g ∧ lowNibble b = r := by
  constructor
  · rintro rfl
    exact ⟨segField_segReg g r, lowNibble_segReg g r⟩
  · rintro ⟨rfl, rfl⟩
    apply BitVec.eq_of_toNat_eq
    simp only [segReg_toNat, segField, lowNibble, BitVec.extractLsb'_toNat, Nat.shiftRight_eq_div_pow]
    omega

@[simp] theorem nibbles_eq_iff {b : Byte} {hi lo : Reg} :
    nibbles hi lo = b ↔ lowNibble b = lo ∧ highNibble b = hi := by
  constructor
  · rintro rfl
    exact ⟨lowNibble_nibbles hi lo, highNibble_nibbles hi lo⟩
  · rintro ⟨rfl, rfl⟩
    apply BitVec.eq_of_toNat_eq
    simp only [nibbles, lowNibble, highNibble, BitVec.toNat_ofNat]
    omega

theorem foldModeOf_eq_some_iff {b : Byte} {m : FoldMode} : foldModeOf b = some m ↔ m.byte = b := by
  constructor
  · unfold foldModeOf
    split <;> rintro ⟨⟩
    all_goals exact BitVec.eq_of_toNat_eq (Eq.symm ‹_›)
  · rintro rfl
    exact foldModeOf_byte m

/-! ### The classes of the opcodes (R83, R85, R86) -/

theorem classOf_eq_executes_iff {op : Byte} : classOf op = some .executes ↔
    formatOf op ≠ none ∧ unsupportedOf op = none ∧ inertOf op = none := by
  cases hf : formatOf op <;> cases hu : unsupportedOf op <;> cases hi : inertOf op <;> simp [classOf, hf, hu, hi]

/-- Encoder and decoder use the same format (R88). -/
theorem formatOf_opcode (i : Instr) : ∃ f, formatOf i.opcode = some f ∧ i.operandBytes.length + 1 = f.width := by
  cases i <;> exact ⟨_, rfl, rfl⟩

theorem unsupportedOf_opcode {i j : Instr} (h : unsupportedOf i.opcode = some j) : j = i := by
  cases i <;> cases h <;> rfl

theorem inertOf_opcode {i j : Instr} (h : inertOf i.opcode = some j) : j = i := by
  cases i <;> cases h <;> rfl

/-! ### What the operand checks and the decoder accept -/

/-- The heart of the encoding: on an opcode of class "x" the operand checks accept exactly the operand bytes that the
encoder writes, because each field is read from the bits that the encoder puts it in. -/
theorem decodeOperands_eq_ok_iff {i : Instr} (hclass : classOf i.opcode = some .executes) (b1 b2 b3 : Byte) :
    decodeOperands i.opcode b1 b2 b3 = .ok i ↔ i.wellFormed = true ∧ i.operandBytes <+: [b1, b2, b3] := by
  cases i with
  | trans | pipe | lerp | slerp | grad | descent | promote | demote => cases hclass
  | emerge | collapse | sync | broadcast | receive | entangle => cases hclass
  | hintCpu | hintGpu | hintNpu | hintFpga | hintDsp | batchBegin | batchEnd | prefetch | fence => cases hclass
  | root d n =>
    have hroot : decodeOperands 0x43 b1 b2 b3 = .ok (.root d n) ↔ regByte d = b1 ∧ b2 ≠ 0 ∧ b2 = n := by
      simp [decodeOperands, ite_error_eq_ok_iff]
    rw [Instr.opcode, hroot]
    rcases eq_or_ne n b2 with rfl | hn
    · simp [Instr.operandBytes, Instr.wellFormed, and_comm]
    · simp [Instr.operandBytes, hn, hn.symm]
  | fold m =>
    have hmode : decodeOperands 0x64 b1 b2 b3 = .ok (.fold m) ↔ foldModeOf b1 = some m := by
      simp only [decodeOperands]
      cases foldModeOf b1 <;> simp
    simpa [Instr.opcode, Instr.operandBytes, Instr.wellFormed, foldModeOf_eq_some_iff] using hmode
  -- In the remaining instructions each byte is a field, or two, of its own, and the field's equivalence is its law.
  | movi _ v | pow _ v | scale _ v | rotate _ v | sense _ v =>
    simp [decodeOperands, Instr.opcode, Instr.operandBytes, Instr.wellFormed, eq_comm (a := v)]
  | act ix r =>
    simp [decodeOperands, Instr.opcode, Instr.operandBytes, Instr.wellFormed, eq_comm (a := ix), and_comm]
  | _ => simp [decodeOperands, Instr.opcode, Instr.operandBytes, Instr.wellFormed, and_assoc]

/-- Up to three bytes that are there can be read off the decoder's `B1`, `B2`, `B3`, where absent bytes are 0. -/
theorem prefix_padded_iff {bs ops : List Byte} (hlen : bs.length ≤ ops.length) (h3 : bs.length ≤ 3) :
    bs <+: [ops.getD 0 0, ops.getD 1 0, ops.getD 2 0] ↔ bs <+: ops := by
  have htake : [ops.getD 0 0, ops.getD 1 0, ops.getD 2 0] = (ops ++ [0, 0, 0]).take 3 := by
    rcases ops with - | ⟨a, - | ⟨b, - | ⟨c, rest⟩⟩⟩ <;> rfl
  rw [htake, List.prefix_take_iff]
  constructor
  · exact fun h => List.prefix_of_prefix_length_le h.1 (List.prefix_append ..) hlen
  · exact fun h => ⟨h.trans (List.prefix_append ..), h3⟩

/-- The bytes after the opcode byte of a class "x" instruction decode to it exactly when they begin with its operand
bytes. -/
theorem decode_eq_ok_iff_of_executes {i : Instr} (hclass : classOf i.opcode = some .executes) (ops : List Byte) :
    decode (i.opcode :: ops) = .ok i ↔ i.wellFormed = true ∧ i.operandBytes <+: ops := by
  obtain ⟨-, hu, hi⟩ := classOf_eq_executes_iff.1 hclass
  obtain ⟨f, hf, hwidth⟩ := formatOf_opcode i
  have hmax : f.width ≤ 4 := by cases f <;> decide
  rcases Nat.lt_or_ge (ops.length + 1) f.width with hshort | hwhole
  · rw [decode_short hf hu hshort]
    have hno : ¬i.operandBytes <+: ops := fun h => by have := h.length_le; omega
    simp [hno]
  · rw [decode_executes hf hu hi hwhole, decodeOperands_eq_ok_iff hclass, prefix_padded_iff] <;> omega

/-- An instruction of class "u" or "n" decodes from its opcode byte and as many operand bytes as its format has. -/
theorem decode_eq_ok_of_not_executes {i : Instr} (hclass : classOf i.opcode ≠ some .executes) {ops : List Byte}
    (hlen : i.operandBytes.length ≤ ops.length) : decode (i.opcode :: ops) = .ok i := by
  obtain ⟨f, hf, hwidth⟩ := formatOf_opcode i
  cases hu : unsupportedOf i.opcode with
  | some j => rw [decode_unsupported ops hf hu, unsupportedOf_opcode hu]
  | none =>
    cases hi : inertOf i.opcode with
    | some j => rw [decode_inert hf hu hi (by omega), inertOf_opcode hi]
    | none => exact absurd (classOf_eq_executes_iff.2 ⟨by simp [hf], hu, hi⟩) hclass

theorem wellFormed_of_not_executes {i : Instr} (hclass : classOf i.opcode ≠ some .executes) :
    i.wellFormed = true := by
  cases i with
  | root d n => exact absurd rfl hclass
  | _ => rfl

/-- Settles O1: the operand bytes are all there, and for class "x" they are what the operand checks accept. -/
theorem decodeEncodeRoundTrip : Obligations.DecodeEncodeRoundTrip := by
  intro i rest hwf
  have hprefix : i.operandBytes <+: i.operandBytes ++ rest := List.prefix_append ..
  show decode (i.opcode :: (i.operandBytes ++ rest)) = .ok i
  by_cases hclass : classOf i.opcode = some .executes
  · exact (decode_eq_ok_iff_of_executes hclass _).2 ⟨hwf, hprefix⟩
  · exact decode_eq_ok_of_not_executes hclass hprefix.length_le

/-- Settles O2: the first byte is the opcode whatever the class, and class "x" decodes only from its own operand
bytes. -/
theorem decodedBytesAreTheEncoding : Obligations.DecodedBytesAreTheEncoding := by
  intro bs i h
  cases bs with
  | nil => cases h
  | cons op ops =>
    obtain rfl : i.opcode = op := decodesTo_decode op ops i h
    by_cases hclass : classOf i.opcode = some .executes
    · obtain ⟨hwf, hops⟩ := (decode_eq_ok_iff_of_executes hclass ops).1 h
      have hbytes : encode i <+: i.opcode :: ops := List.cons_prefix_cons.2 ⟨rfl, hops⟩
      exact ⟨hwf, rfl, fun _ => (List.prefix_iff_eq_take.1 hbytes).symm⟩
    · exact ⟨wellFormed_of_not_executes hclass, rfl, fun h => absurd h hclass⟩

end Sys2Proof.Machine
end

section
/-! SUPPORT and PROOFS. What each class of opcode bytes does when it is decoded and stepped on, the operand values that
are refused, and the operand forms (30_encoding.md). -/

namespace Sys2Proof.Machine

/-! ### Unassigned and unsupported opcodes (R84, R85) -/

theorem unassigned_iff_formatOf_eq_none (op : Byte) : Unassigned op ↔ formatOf op = none := by
  revert op
  decide

theorem unassigned_count :
    ((List.range 256).filter fun n => decide (Unassigned (BitVec.ofNat 8 n))).length = 193 := by
  rfl

theorem raisedOnly_raise (s : State) (k : FaultKind) (info : BitVec 32) :
    RaisedOnly s (.next (s.raise k info)) k info := ⟨_, rfl, rfl, rfl, rfl⟩

theorem fetchInstr_of_fetchByte {s : State} {op : Byte} (hop : s.fetchByte s.pc = some op) :
    s.fetchInstr = decode (op :: s.fetchWindow (s.pc + 1) 3) := by
  rw [State.fetchInstr, s.fetchWindow_succ_some s.pc 3 op hop]

theorem step_of_fetchInstr_ok {s : State} {i : Instr} (hrun : s.run = .running) (hi : s.fetchInstr = .ok i) :
    step s = exec i s := by
  simp only [step, hrun, hi]

theorem step_raises_of_fetchInstr_error {s : State} {e : DecodeError} {k : FaultKind} {info : BitVec 32}
    (hrun : s.run = .running) (he : s.fetchInstr = .error e) (hraise : s.raiseDecode e = s.raise k info) :
    RaisedOnly s (step s) k info := by
  rw [step_of_fetchInstr_error hrun he, hraise]
  exact raisedOnly_raise s k info

theorem decode_unassigned {op : Byte} (h : Unassigned op) (ops : List Byte) :
    decode (op :: ops) = .error (.illegalOpcode op) := by
  simp only [decode, (unassigned_iff_formatOf_eq_none op).1 h]

@[simp] theorem withReg_eq_illegalOpcode_iff {k : Nat} {b op : Byte} {f : Reg → Except DecodeError Instr} :
    withReg k b f = .error (.illegalOpcode op) ↔ b.toNat < 16 ∧ f (lowNibble b) = .error (.illegalOpcode op) := by
  simp [withReg, ite_eq_iff]

/-- The operand checks end in "illegal opcode" only past all opcodes of class "x". -/
theorem decodeOperands_ne_illegalOpcode {op : Byte} (hclass : classOf op = some .executes) (b1 b2 b3 : Byte) :
    decodeOperands op b1 b2 b3 ≠ .error (.illegalOpcode op) := by
  unfold decodeOperands
  split
  case h_23 => simp [ite_eq_iff]
  case h_36 => cases foldModeOf b1 <;> simp
  case h_41 =>
    -- Every opcode with a format is excluded here, by an arm of `decodeOperands` or by its class.
    obtain ⟨hf, hu, hi⟩ := classOf_eq_executes_iff.1 hclass
    unfold formatOf at hf
    split at hf
    any_goals contradiction
    all_goals
      rename_i hop
      simp only [unsupportedOf, inertOf, hop, reduceCtorEq] at hu hi
  all_goals simp

/-- Only an unassigned opcode byte is refused as an opcode. -/
theorem unassigned_of_decode {op : Byte} {ops : List Byte} (h : decode (op :: ops) = .error (.illegalOpcode op)) :
    Unassigned op := by
  rw [unassigned_iff_formatOf_eq_none]
  cases hf : formatOf op with
  | none => rfl
  | some f =>
    exfalso
    cases hu : unsupportedOf op with
    | some i => exact nomatch (decode_unsupported ops hf hu).symm.trans h
    | none =>
      rcases Nat.lt_or_ge (ops.length + 1) f.width with hshort | hwhole
      · exact nomatch (decode_short hf hu hshort).symm.trans h
      · cases hi : inertOf op with
        | some i => exact nomatch (decode_inert hf hu hi hwhole).symm.trans h
        | none =>
          have hclass : classOf op = some .executes := classOf_eq_executes_iff.2 ⟨by simp [hf], hu, hi⟩
          exact decodeOperands_ne_illegalOpcode hclass _ _ _ ((decode_executes hf hu hi hwhole).symm.trans h)

/-- Settles O3: an opcode byte is unassigned exactly when it has no format, which the decoder asks first. -/
theorem unassignedOpcodesAreIllegal : Obligations.UnassignedOpcodesAreIllegal := by
  refine ⟨unassigned_count, fun op rest => ⟨fun h => decode_unassigned h rest, unassigned_of_decode⟩,
    fun s op hrun hop hun => ?_⟩
  have hfetch : s.fetchInstr = .error (.illegalOpcode op) := by
    rw [fetchInstr_of_fetchByte hop, decode_unassigned hun]
  exact step_raises_of_fetchInstr_error hrun hfetch rfl

theorem unsupportedRows_decode : ∀ row ∈ unsupportedRows,
    formatOf row.1 = some row.2.1 ∧ unsupportedOf row.1 = some row.2.2 := by
  decide

theorem exec_unsupportedRow (s : State) {row : Byte × Format × Instr} (h : row ∈ unsupportedRows) :
    exec row.2.2 s = .next (s.raise .unsupportedOpcode (row.1.setWidth 32)) := by
  unfold unsupportedRows at h
  fin_cases h <;> rfl

/-- Settles O4: the class is told by the first byte, and each meaning is the fault with its own opcode byte. -/
theorem unsupportedOpcodesRaise : Obligations.UnsupportedOpcodesRaise := by
  intro row hrow
  obtain ⟨hf, hu⟩ := unsupportedRows_decode row hrow
  have hexec (s : State) : RaisedOnly s (exec row.2.2 s) .unsupportedOpcode (row.1.setWidth 32) := by
    rw [exec_unsupportedRow s hrow]
    exact raisedOnly_raise s _ _
  refine ⟨hf, fun rest => decode_unsupported rest hf hu, hexec, fun s hrun hop => ?_⟩
  have hfetch : s.fetchInstr = .ok row.2.2 := by
    rw [fetchInstr_of_fetchByte hop, decode_unsupported _ hf hu]
  rw [step_of_fetchInstr_ok hrun hfetch]
  exact hexec s

/-! ### Stubs and hints (R86) -/

theorem inertRows_decode : ∀ row ∈ stubRows ++ hintRows,
    formatOf row.1 = some row.2.1 ∧ unsupportedOf row.1 = none ∧ inertOf row.1 = some row.2.2 := by
  decide

theorem exec_inertRow (s : State) {row : Byte × Format × Instr} (h : row ∈ stubRows ++ hintRows) :
    exec row.2.2 s = .next (s.advance row.2.1) := by
  unfold stubRows hintRows at h
  fin_cases h <;> rfl

/-- Settles O5: the class is told after the operand bytes are there, and each meaning is an advance of `pc`. -/
theorem stubsAndHintsActAsNext : Obligations.StubsAndHintsActAsNext := by
  intro row hrow
  obtain ⟨hf, hu, hi⟩ := inertRows_decode row hrow
  exact ⟨hf, fun _ => decode_inert hf hu hi, fun _ => decode_short hf hu, fun s => ⟨_, exec_inertRow s hrow, rfl⟩⟩

/-- Settles O7, by evaluating the decoder on the seven words. -/
theorem specWordsDecode : Obligations.SpecWordsDecode :=
  ⟨rfl, rfl, rfl, rfl, rfl, rfl, rfl⟩

/-! ### Refused operands (R80, R81, R87) -/

/-- The opcodes whose `B1` is a register, or the count of `ROTL`. -/
def registerFirst : List Byte :=
  [0x16, 0x20, 0x21, 0x24, 0x25, 0x40, 0x41, 0x42, 0x43, 0x44, 0x45, 0x46, 0x47, 0x48, 0x49, 0x4A, 0x4B,
    0x60, 0x61, 0x62, 0x63, 0x65, 0x66, 0xC0]

/-- The opcodes whose `B1` and `B2` are registers. -/
def registerPair : List Byte := [0x20, 0x40, 0x41, 0x46, 0x47]

theorem decode_of_executes {op : Byte} {ops : List Byte} {f : Format} (hclass : classOf op = some .executes)
    (hf : formatOf op = some f) (hl : f.width ≤ ops.length + 1) :
    decode (op :: ops) = decodeOperands op (ops.getD 0 0) (ops.getD 1 0) (ops.getD 2 0) := by
  obtain ⟨-, hu, hi⟩ := classOf_eq_executes_iff.1 hclass
  exact decode_executes hf hu hi hl

theorem decodeOperands_registerFirst {op b1 : Byte} (hop : op ∈ registerFirst) (hb : 16 ≤ b1.toNat) (b2 b3 : Byte) :
    decodeOperands op b1 b2 b3 = .error (.illegalOperand 1 b1) := by
  unfold registerFirst at hop
  fin_cases hop <;> simp [decodeOperands, withReg_of_ge, hb]

theorem decodeOperands_registerPair {op b1 b2 : Byte} (hop : op ∈ registerPair) (hb1 : b1.toNat < 16)
    (hb2 : 16 ≤ b2.toNat) (b3 : Byte) : decodeOperands op b1 b2 b3 = .error (.illegalOperand 2 b2) := by
  unfold registerPair at hop
  fin_cases hop <;> simp [decodeOperands, withReg_of_lt, withReg_of_ge, hb1, hb2]

theorem registerFirst_executes : ∀ op ∈ registerFirst, classOf op = some .executes := by decide

theorem decode_registerFirst {op b1 : Byte} {rows ops : List Byte} {f : Format}
    (hrows : ∀ op ∈ rows, op ∈ registerFirst ∧ formatOf op = some f) (hop : op ∈ rows)
    (hl : f.width ≤ ops.length + 2) (hb : 16 ≤ b1.toNat) :
    decode (op :: b1 :: ops) = .error (.illegalOperand 1 b1) := by
  obtain ⟨hmem, hf⟩ := hrows op hop
  rw [decode_of_executes (ops := b1 :: ops) (registerFirst_executes op hmem) hf hl]
  exact decodeOperands_registerFirst hmem hb _ _

theorem decode_registerPair {op b1 b2 : Byte} {ops : List Byte} (hop : op ∈ registerPair) (hb1 : b1.toNat < 16)
    (hb2 : 16 ≤ b2.toNat) : decode (op :: b1 :: b2 :: ops) = .error (.illegalOperand 2 b2) := by
  have hrow : ∀ op ∈ registerPair, classOf op = some .executes ∧ formatOf op = some .c := by decide
  obtain ⟨hclass, hf⟩ := hrow op hop
  rw [decode_of_executes hclass hf (by simp [Format.width])]
  exact decodeOperands_registerPair hop hb1 hb2 _

theorem decode_fold_refused {b1 : Byte} (ops : List Byte) (hb : 3 ≤ b1.toNat) :
    decode (0x64 :: b1 :: ops) = .error (.illegalOperand 1 b1) := by
  have hmode : foldModeOf b1 = none := by
    by_contra hsome
    obtain ⟨m, hm⟩ := Option.ne_none_iff_exists'.1 hsome
    have hsmall : m.byte.toNat < 3 := by cases m <;> decide
    rw [foldModeOf_eq_some_iff.1 hm] at hsmall
    omega
  rw [decode_of_executes (f := .b) rfl rfl (by simp [Format.width])]
  simp [decodeOperands, hmode]

theorem decode_zeroIndexRoot_refused {b1 : Byte} (ops : List Byte) (hb : b1.toNat < 16) :
    decode (0x43 :: b1 :: 0x00 :: ops) = .error (.illegalOperand 2 0x00) := by
  rw [decode_of_executes (f := .c) rfl rfl (by simp [Format.width])]
  simp [decodeOperands, withReg_of_lt, hb]

theorem decode_act_refused {b2 : Byte} (b1 : Byte) (ops : List Byte) (hb : 16 ≤ b2.toNat) :
    decode (0xC1 :: b1 :: b2 :: ops) = .error (.illegalOperand 2 b2) := by
  rw [decode_of_executes (f := .c) rfl rfl (by simp [Format.width])]
  simp [decodeOperands, withReg_of_ge, hb]

/-- Settles O9: `withReg` refuses a register byte of 16 or more, for `B1` before it looks at `B2`. -/
theorem illegalOperandsAreRefusedInOrder : Obligations.IllegalOperandsAreRefusedInOrder := by
  refine ⟨fun op hop b1 b2 rest => ⟨fun hb => ?_, decode_registerPair hop⟩, fun op hop b1 b2 rest hb => ?_,
    fun op hop b1 rest hb => ?_, fun b1 rest => decode_fold_refused rest,
    fun b1 rest => decode_zeroIndexRoot_refused rest, fun b1 b2 b3 rest hb => ?_,
    fun b1 b2 rest => decode_act_refused b1 rest,
    fun s k b hrun he => step_raises_of_fetchInstr_error hrun he rfl⟩
  · exact decode_registerFirst (f := .c) (by decide) hop (by simp [Format.width]) hb
  · exact decode_registerFirst (f := .c) (by decide) hop (by simp [Format.width]) hb
  · exact decode_registerFirst (f := .b) (by decide) hop (by simp [Format.width]) hb
  · exact decode_registerFirst (f := .dm) (by decide) (List.mem_singleton_self 0x16) (by simp [Format.width]) hb

/-! ### Operand forms (R77 to R79, R82) -/

theorem segmentOf_eq_stateHeap_iff (a : Addr) : segmentOf a = some .stateHeap ↔ a.toNat / 2 ^ 28 = 1 :=
  ⟨segmentOf_eq_some a .stateHeap, fun h => by simp only [segmentOf, h]⟩

/-- The byte `j` of state `k` runs over the whole StateHeap segment. -/
theorem segmentOf_eq_stateHeap_iff_exists (a : Addr) : segmentOf a = some .stateHeap ↔
    ∃ (k : BitVec 24) (j : Reg), a.toNat = (stateAddress k).toNat + j.val := by
  rw [segmentOf_eq_stateHeap_iff]
  constructor
  · intro h
    refine ⟨BitVec.ofNat 24 (offsetOf a / 16), ⟨offsetOf a % 16, Nat.mod_lt _ (by decide)⟩, ?_⟩
    simp only [stateAddress_toNat, heapBase, offsetOf, BitVec.toNat_ofNat]
    omega
  · rintro ⟨k, j, h⟩
    rw [h, stateAddress_toNat, heapBase]
    omega

theorem segmentOf_codeTarget24 (t : BitVec 24) : segmentOf (codeTarget24 t) = some .code := by
  rw [segmentOf_eq_code_iff]
  have := codeTarget24_lt t
  omega

theorem codeTarget24_toNat (t : BitVec 24) : (codeTarget24 t).toNat = t.toNat :=
  BitVec.toNat_setWidth_of_le (by decide)

theorem rangeCount_eq (lo hi : Reg) : (rangeCount lo hi : Int) = ((hi.val : Int) - lo.val) % 16 + 1 := by
  simp only [rangeCount, Fin.sub_def]
  omega

theorem layerRange_length (lo hi : Reg) : (layerRange lo hi).length = rangeCount lo hi := by
  simp [layerRange]

theorem layerRange_getElem (lo hi : Reg) (j : Nat) (h : j < (layerRange lo hi).length) :
    ((layerRange lo hi)[j]).val = (lo.val + j) % 16 := by
  simp [layerRange]

/-- Settles O10, from the number that each operand form stands for. -/
theorem operandFormsAreAsEncoded : Obligations.OperandFormsAreAsEncoded := by
  refine ⟨imm24_toNat, imm16_toNat, shortAddress_toNat, fun k => ?_, segmentOf_eq_stateHeap_iff_exists,
    fun t => ⟨codeTarget24_toNat t, segmentOf_codeTarget24 t⟩, fun lo hi => ⟨?_, layerRange_getElem lo hi⟩⟩
  · rw [stateAddress_toNat, heapBase]
    omega
  · rw [layerRange_length, rangeCount_eq]

end Sys2Proof.Machine
end

section
/-! SUPPORT and PROOFS. The Control instructions (40_control.md): how each moves `pc`, what it does to the call stack and
to `RUN`, and that it changes nothing else. -/

namespace Sys2Proof.Machine

/-! ### Decoding, code targets and the run state -/

/-- A well-formed instruction decodes from its opcode byte and its operand bytes. -/
theorem decode_opcode_operands {i : Instr} {ops : List Byte} (hwf : i.wellFormed = true)
    (hops : i.operandBytes = ops) : decode (i.opcode :: ops) = .ok i := by
  subst hops
  simpa [encode] using decodeEncodeRoundTrip i [] hwf

theorem codeTarget16_toNat (t : BitVec 16) : (codeTarget16 t).toNat = t.toNat :=
  BitVec.toNat_setWidth_of_le (by decide)

/-- A core that is not running takes no step (70_reset_and_hazards.md R301). -/
theorem step_of_not_running {s : State} (h : s.run ≠ .running) : step s = .next s := by
  rcases step_cases s _ rfl with ⟨-, hidle⟩ | ⟨hrun, -⟩ | ⟨hrun, -⟩
  · exact hidle
  · exact absurd hrun h
  · exact absurd hrun h

theorem hostResume_of_yielded {s : State} (h : s.run = .yielded) : hostResume s = { s with run := .running } :=
  if_pos h

theorem hostResume_of_not_yielded {s : State} (h : s.run ≠ .yielded) : hostResume s = s := if_neg h

/-- Settles O27: `HALTED` and `YIELDED` both stop the steps, and `Resume` acts only on the second. -/
theorem nopHltYieldSetPcAndRun : Obligations.NopHltYieldSetPcAndRun := by
  refine ⟨decode_opcode_operands (i := .nop) rfl rfl, decode_opcode_operands (i := .hlt) rfl rfl,
    decode_opcode_operands (i := .yield) rfl rfl, fun s => ⟨⟨_, rfl, rfl⟩, ⟨_, rfl, rfl, ?_, ?_⟩, _, rfl, rfl, ?_, ?_⟩⟩
  · exact step_of_not_running nofun
  · exact hostResume_of_not_yielded nofun
  · exact step_of_not_running nofun
  · exact hostResume_of_yielded rfl

/-! ### Jumps (R104 to R108) -/

/-- A conditional jump is a choice of the next `pc` and nothing else (R105). -/
theorem jumpIf_effect (s : State) (cond : Bool) (target : BitVec 24) :
    s.jumpIf cond (codeTarget24 target) = { s with pc := (s.jumpIf cond (codeTarget24 target)).pc } ∧
    (cond = true → (s.jumpIf cond (codeTarget24 target)).pc.toNat = target.toNat) ∧
    (cond = false → (s.jumpIf cond (codeTarget24 target)).pc = s.pc + 4) := by
  rw [State.jumpIf_eq]
  cases cond with
  | true => exact ⟨rfl, fun _ => codeTarget24_toNat target, nofun⟩
  | false => exact ⟨rfl, nofun, fun _ => rfl⟩

/-- Settles O28: each row of the statement is a conditional jump on its own flag. -/
theorem jumpsFollowTheirFlag : Obligations.JumpsFollowTheirFlag := by
  intro b1 b2 b3 s target
  have hops : bytes24 target = [b1, b2, b3] := bytes24_imm24 b1 b2 b3
  refine ⟨decode_opcode_operands (i := .jmp target) rfl hops, decode_opcode_operands (i := .jz target) rfl hops,
    decode_opcode_operands (i := .jn target) rfl hops, decode_opcode_operands (i := .jc target) rfl hops,
    decode_opcode_operands (i := .jo target) rfl hops, ⟨_, rfl, rfl, codeTarget24_toNat target⟩, fun row hrow => ?_⟩
  have hexec : exec row.1 s = .next (s.jumpIf row.2 (codeTarget24 target)) := by
    fin_cases hrow <;> rfl
  exact ⟨_, hexec, jumpIf_effect s row.2 target⟩

/-! ### The call stack (R109, R110) -/

theorem exec_call_of_full {s : State} (target : BitVec 24) (h : s.cs.length = s.cfg.cstackCap) :
    exec (.call target) s = .next (s.raise .stackOverflow 1) := if_pos h

theorem exec_call_of_not_full {s : State} (target : BitVec 24) (h : s.cs.length ≠ s.cfg.cstackCap) :
    exec (.call target) s = .next
      { s with
        cs := s.cs ++ [⟨s.pc + 4, s.fp⟩], fp := BitVec.ofNat 32 s.vs.length, pc := codeTarget24 target } :=
  if_neg h

theorem exec_ret_of_empty {s : State} (h : s.cs = []) : exec .ret s = .next (s.raise .stackUnderflow 1) := by
  simp only [exec, execRet, h, List.getLast?_nil]

theorem exec_ret_of_top {s : State} {below : List Frame} {f : Frame} (h : s.cs = below ++ [f]) :
    exec .ret s = .next { s with cs := below, fp := f.fp, pc := f.ret } := by
  simp only [exec, execRet, h, List.getLast?_concat, List.dropLast_concat]

/-- Settles O29, by the capacity test. -/
theorem callPushesAFrame : Obligations.CallPushesAFrame := by
  intro b1 b2 b3 s target
  refine ⟨decode_opcode_operands (i := .call target) rfl (bytes24_imm24 b1 b2 b3), fun hroom => ?_, fun hfull => ?_⟩
  · exact ⟨_, exec_call_of_not_full target hroom, codeTarget24_toNat target, rfl⟩
  · rw [exec_call_of_full target hfull]
    exact raisedOnly_raise s _ _

/-- Settles O30, by whether there is a top frame. -/
theorem retPopsAFrame : Obligations.RetPopsAFrame := by
  refine ⟨decode_opcode_operands (i := .ret) rfl rfl, fun s below f htop => ⟨_, exec_ret_of_top htop, rfl⟩,
    fun s hempty => ?_⟩
  rw [exec_ret_of_empty hempty]
  exact raisedOnly_raise s _ _

/-! ### `LOOP` (R111) -/

/-- Writing one register, the flags and `pc` is all that an instruction with one register result does. -/
theorem writesOneReg_setReg (s : State) (d : Reg) (v : Byte) (sr : SR) (pc : Addr) :
    WritesOneReg s { s.setReg d v with sr := sr, pc := pc } d where
  outside := by constructor <;> intros <;> rfl
  others _ hr := s.setReg_reg_ne d v hr

theorem decode_loop_refused {b1 : Byte} (b2 b3 : Byte) (h : 16 ≤ b1.toNat) :
    decode [0x16, b1, b2, b3] = .error (.illegalOperand 1 b1) :=
  decode_registerFirst (f := .dm) (rows := [0x16]) (by decide) (List.mem_singleton_self _) (by simp [Format.width]) h

/-- `LOOP` writes the decremented count and goes to its target unless the count is now 0. -/
theorem exec_loop (c : Reg) (target : BitVec 16) (s : State) :
    exec (.loop c target) s = .next ((s.setReg c (s.reg c - 1)).jump
      (if s.reg c - 1 = 0 then s.pc + 4 else codeTarget16 target)) := by
  simp only [exec, execLoop, ne_eq, ite_not]
  split <;> rfl

/-- Subtraction of 1 from a byte is subtraction modulo 256 of its unsigned value. -/
theorem toNat_sub_one (b : Byte) : ((b - 1).toNat : Int) = ((b.toNat : Int) - 1) % 256 := by
  have := b.isLt
  have hone : (1 : Byte).toNat = 1 := rfl
  rw [BitVec.toNat_sub, hone]
  omega

/-- Settles O31: the count is the byte minus 1, and `pc` is chosen by it. -/
theorem loopDecrementsAndBranches : Obligations.LoopDecrementsAndBranches := by
  intro c b1 b2 b3 s
  have hops : (Instr.loop c (imm16 b2 b3)).operandBytes = [regByte c, b2, b3] :=
    congrArg (regByte c :: ·) (bytes16_imm16 b2 b3)
  refine ⟨decode_opcode_operands rfl hops, fun hselector => decode_loop_refused b2 b3 (by omega), _,
    exec_loop c (imm16 b2 b3) s, ?_⟩
  rw [State.jump_reg, State.setReg_reg_self, State.jump_pc]
  refine ⟨toNat_sub_one _, fun hne => ?_, fun hzero => if_pos hzero, rfl, writesOneReg_setReg s c _ _ _⟩
  rw [if_neg hne, codeTarget16_toNat]

end Sys2Proof.Machine
end

section
/-! SUPPORT and PROOFS. The Data instructions (41_data.md): what a data access of each segment answers, and what the
moves, the loads, the stores and the value stack do and leave unchanged. -/

namespace Sys2Proof.Machine

/-! ### Segments and their selectors (20_memory.md R41) -/

/-- The selector `addr[31:28]` of a segment. -/
def Segment.selector : Segment → BitVec 4
  | .code => 0
  | .stateHeap => 1
  | .callStack => 2
  | .transformTable => 3
  | .ioMapped => 15

theorem segmentOf_eq_some_iff (a : Addr) (g : Segment) :
    segmentOf a = some g ↔ a.toNat / 2 ^ 28 = g.selector.toNat := by
  constructor
  · intro h
    rw [segmentOf_eq_some a g h]
    cases g <;> rfl
  · intro h
    rw [segmentOf, h]
    cases g <;> rfl

theorem segmentOf_shortAddress_iff {seg : BitVec 4} {off : BitVec 16} {g : Segment} :
    segmentOf (shortAddress seg off) = some g ↔ seg = g.selector := by
  rw [segmentOf_eq_some_iff, shortAddress_seg, BitVec.toNat_inj]

/-! ### Instructions that end in an attempt -/

theorem attempt_of_ok {α : Type} {r : Except Raised α} {v : α} (s : State) (effect : α → State) (h : r = .ok v) :
    s.attempt r effect = .next (effect v) := h ▸ rfl

theorem raisedOnly_attempt {α : Type} {r : Except Raised α} {k : FaultKind} {info : Addr} (s : State)
    (effect : α → State) (h : r = .error ⟨k, info⟩) : RaisedOnly s (s.attempt r effect) k info :=
  h ▸ raisedOnly_raise s k info

/-! ### Data reads (20_memory.md R46, R48) -/

section Reads

variable {s : State} {a : Addr} {n : Nat}

/-- The `n` bytes from `a` up lie in a segment that may be read, inside its extent. -/
def Readable (s : State) (a : Addr) (n : Nat) : Prop :=
  ∃ g ext, segmentOf a = some g ∧ s.readExtent g = some ext ∧ offsetOf a + n ≤ ext

theorem memRead_of_readable (h : Readable s a n) : s.memRead a n = .ok (s.mem.readBytes a.toNat n) := by
  obtain ⟨g, ext, hseg, hext, hfits⟩ := h
  simp only [State.memRead, hseg, hext]
  exact if_neg (not_lt.2 hfits)

theorem memRead_of_callStack (h : segmentOf a = some .callStack) : s.memRead a n = .error ⟨.invalidSegment, a⟩ := by
  simp only [State.memRead, h, State.readExtent]

/-- Only the CallStack lacks the permission to be read. -/
theorem readExtent_eq_none {g : Segment} (h : s.readExtent g = none) : g = .callStack := by
  cases g with
  | callStack => rfl
  | _ => cases h

theorem memRead_outOfBounds (hperm : segmentOf a ≠ some .callStack) (h : ¬Readable s a n) :
    s.memRead a n = .error ⟨.addressOutOfBounds, a⟩ := by
  unfold State.memRead
  cases hseg : segmentOf a with
  | none => rfl
  | some g =>
    cases hext : s.readExtent g with
    | none => exact absurd (readExtent_eq_none hext ▸ hseg) hperm
    | some ext =>
      simp only [hext]
      exact if_pos (not_le.1 fun hfits => h ⟨g, ext, hseg, hext, hfits⟩)

/-- One byte at a short address can be read in the Code segment, the StateHeap and the ports, since `TT_SIZE` is 0. -/
theorem readable_shortAddress_iff {seg : BitVec 4} {off : BitVec 16} : Readable s (shortAddress seg off) 1 ↔
    (seg = 0 ∧ off.toNat < s.codeLen) ∨ (seg = 1 ∧ off.toNat < 16 * s.heapLen) ∨
      (seg = 15 ∧ off.toNat < s.cfg.ioPorts) := by
  simp only [Readable, segmentOf_shortAddress_iff, offsetOf_shortAddress, Nat.succ_le_iff]
  constructor
  · rintro ⟨g, ext, hseg, hext, hlt⟩
    cases g with
    | code => cases hext; exact .inl ⟨hseg, hlt⟩
    | stateHeap => cases hext; exact .inr (.inl ⟨hseg, hlt⟩)
    | callStack => cases hext
    | transformTable => cases hext; exact absurd hlt (Nat.not_lt_zero _)
    | ioMapped => cases hext; exact .inr (.inr ⟨hseg, hlt⟩)
  · rintro (⟨hseg, hlt⟩ | ⟨hseg, hlt⟩ | ⟨hseg, hlt⟩)
    · exact ⟨.code, _, hseg, rfl, hlt⟩
    · exact ⟨.stateHeap, _, hseg, rfl, hlt⟩
    · exact ⟨.ioMapped, _, hseg, rfl, hlt⟩

/-- A heap state can be read exactly when it exists (R58). -/
theorem readable_stateAddress_iff {k : BitVec 24} : Readable s (stateAddress k) 16 ↔ k.toNat < s.heapLen := by
  simp only [Readable, segmentOf_stateAddress, offsetOf_stateAddress, Option.some.injEq]
  constructor
  · rintro ⟨g, ext, rfl, ⟨⟩, hfits⟩
    omega
  · intro h
    exact ⟨.stateHeap, _, rfl, rfl, by omega⟩

end Reads

/-! ### Data writes (20_memory.md R46, R49, R54) -/

section Writes

variable {s u : State} {a : Addr} {vs : List Byte}

theorem memWrite_invalidSegment (h : segmentOf a = some .code ∨ segmentOf a = some .callStack) :
    s.memWrite a vs = .error ⟨.invalidSegment, a⟩ := by
  rcases h with h | h <;> simp only [State.memWrite, h]

theorem memWrite_ioMapped (hseg : segmentOf a = some .ioMapped) (hfits : offsetOf a + vs.length ≤ s.cfg.ioPorts) :
    s.memWrite a vs = .ok (s.storeBytes a vs) := by
  simp only [State.memWrite, hseg]
  exact if_neg (not_lt.2 hfits)

/-- Apart from the heap's capacity and the segments without permission, a write that does not fit the ports is out of
bounds. -/
theorem memWrite_outOfBounds (hvs : vs ≠ []) (hcode : segmentOf a ≠ some .code)
    (hheap : segmentOf a ≠ some .stateHeap) (hstack : segmentOf a ≠ some .callStack)
    (hports : segmentOf a = some .ioMapped → s.cfg.ioPorts < offsetOf a + vs.length) :
    s.memWrite a vs = .error ⟨.addressOutOfBounds, a⟩ := by
  have hlen : 0 < vs.length := List.length_pos_iff.2 hvs
  unfold State.memWrite
  cases hseg : segmentOf a with
  | none => rfl
  | some g =>
    cases g with
    | code => exact absurd hseg hcode
    | stateHeap => exact absurd hseg hheap
    | callStack => exact absurd hseg hstack
    | transformTable => exact if_pos (Nat.add_pos_right _ hlen)
    | ioMapped => exact if_pos (hports hseg)

/-- What a data write stored is read back. -/
theorem memWrite_read_stored (hwf : Memory.wf s.mem) (hvs : vs ≠ []) (hu : s.memWrite a vs = .ok u) {j : Nat}
    (hj : j < vs.length) : u.mem.read (a.toNat + j) = vs.getD j 0 := by
  have hstored : ∀ m : Memory, Memory.wf m → (m.writeBytes a.toNat vs).read (a.toNat + j) = vs.getD j 0 := by
    intro m hm
    rw [Memory.read_writeBytes m _ _ hm, if_pos (by omega), Nat.add_sub_cancel_left]
  rcases s.memWrite_ok u a vs hvs hu with ⟨-, -, rfl⟩ | ⟨-, -, rfl⟩
  · exact hstored _ (s.growHeap_wf _ hwf)
  · exact hstored _ hwf

/-- Between the end of the heap and its capacity no extent lies, so nothing is listed there. -/
theorem read_above_heap (hmem : s.MemInv) (hcap : s.CapInv) {b : Nat} (hlo : heapBase + 16 * s.heapLen ≤ b)
    (hhi : b < heapBase + 16 * s.cfg.heapCap) : s.mem.read b = 0 := by
  obtain ⟨-, hmapped⟩ := hmem
  obtain ⟨⟨hheapCap, -⟩, hcode, -⟩ := hcap
  refine Memory.read_of_not_listed _ _ fun x hx hb => ?_
  have := hmapped x hx
  simp only [State.Mapped, Config.codeMax, Config.heapCapMax, heapBase, ioBase] at *
  omega

/-- In a sound memory the growth of the heap shows in no byte: the new states read `0x00` before, too. -/
theorem growHeap_read_eq (hmem : s.MemInv) (hcap : s.CapInv) {len : Nat} (hlen : len ≤ s.cfg.heapCap) (b : Nat) :
    (s.growHeap len).mem.read b = s.mem.read b := by
  rw [State.growHeap_read]
  split
  next hnew =>
    obtain ⟨hlo, hhi⟩ := hnew
    exact (read_above_heap hmem hcap hlo (by omega)).symm
  next => rfl

/-- In a sound memory a data write changes the stored bytes only. -/
theorem memWrite_read_other (hmem : s.MemInv) (hcap : s.CapInv) (hvs : vs ≠ []) (hu : s.memWrite a vs = .ok u) {b : Nat}
    (hb : b < a.toNat ∨ a.toNat + vs.length ≤ b) : u.mem.read b = s.mem.read b := by
  have hkept : ∀ m : Memory, Memory.wf m → (m.writeBytes a.toNat vs).read b = m.read b := by
    intro m hm
    rw [Memory.read_writeBytes m _ _ hm, if_neg (by omega)]
  rcases s.memWrite_ok u a vs hvs hu with ⟨-, hk, rfl⟩ | ⟨-, -, rfl⟩
  · exact (hkept _ (s.growHeap_wf _ hmem.1)).trans (growHeap_read_eq hmem hcap hk b)
  · exact hkept _ hmem.1

/-- The states that a data write adds are vacuum where they are not stored to (R54). -/
theorem memWrite_read_new (hmem : s.MemInv) (hcap : s.CapInv) (hvs : vs ≠ []) (hu : s.memWrite a vs = .ok u) {b : Nat}
    (hb : b < a.toNat ∨ a.toNat + vs.length ≤ b) (hlo : heapBase + 16 * s.heapLen ≤ b)
    (hhi : b < heapBase + 16 * u.heapLen) : u.mem.read b = 0 := by
  have ⟨_, _, hheap, _⟩ := hcap
  have hle : u.heapLen ≤ s.cfg.heapCap := memWrite_heapLen_le hvs hu hheap
  rw [memWrite_read_other hmem hcap hvs hu hb]
  exact read_above_heap hmem hcap hlo (by omega)

/-- A data write and the advance of `pc` change memory, `HEAP_LEN` and `pc` only. -/
theorem memWrite_advance_frame (f : Format) (hvs : vs ≠ []) (hu : s.memWrite a vs = .ok u) :
    u.advance f =
      { s with mem := u.mem, heapLen := u.heapLen, pc := s.pc + BitVec.ofNat 32 f.width } := by
  rw [(memWrite_frame hvs hu).1]
  rfl

end Writes

/-! ### `MOV`, `MOVI` and `LOAD` (R121 to R123) -/

theorem moveEffect_setReg (s : State) (d : Reg) (v : Byte) (f : Format) :
    MoveEffect s ((s.setReg d v).advance f) d v f.width :=
  ⟨s.setReg_reg_self d v, rfl, rfl, writesOneReg_setReg s d v _ _⟩

/-- Settles O32: both are one register write and an advance. -/
theorem movesCopyOneByte : Obligations.MovesCopyOneByte := by
  intro d r v s
  exact ⟨⟨decode_opcode_operands (i := .mov d r) rfl rfl, _, rfl, moveEffect_setReg s d (s.reg r) .c⟩,
    decode_opcode_operands (i := .movi d v) rfl rfl, _, rfl, moveEffect_setReg s d v .c⟩

theorem exec_load_of_readable {s : State} {seg : BitVec 4} {off : BitVec 16} (d : Reg)
    (h : Readable s (shortAddress seg off) 1) : exec (.load seg d off) s =
      .next ((s.setReg d (s.mem.read (seg.toNat * 2 ^ 28 + off.toNat))).advance .dm) := by
  rw [← shortAddress_toNat]
  exact attempt_of_ok s _ (memRead_of_readable h)

/-- Settles O33, by whether the byte can be read and, if not, whether its segment is the CallStack. -/
theorem loadReadsOneByte : Obligations.LoadReadsOneByte := by
  intro seg d off s
  refine ⟨decode_opcode_operands (i := .load seg d off) rfl rfl, ?_⟩
  split_ifs with hread hstack
  · exact ⟨_, exec_load_of_readable d (readable_shortAddress_iff.2 hread), moveEffect_setReg s d _ .dm⟩
  · exact raisedOnly_attempt s _ (memRead_of_callStack (segmentOf_shortAddress_iff.2 hstack))
  · exact raisedOnly_attempt s _ (memRead_outOfBounds (mt segmentOf_shortAddress_iff.1 hstack)
      (mt readable_shortAddress_iff.1 hread))

/-! ### `STORE` (R124) -/

section Store

variable {s u : State} {seg : BitVec 4} {off : BitVec 16}

theorem lastState_shortAddress (seg : BitVec 4) (off : BitVec 16) :
    lastState (shortAddress seg off) 1 = off.toNat / 16 := by
  rw [lastState, offsetOf_shortAddress, Nat.add_sub_cancel]

/-- `STORE` is accepted by the heap below its capacity, which it may grow, and by the ports. -/
theorem memWrite_shortAddress_ok (v : Byte)
    (h : (seg = 1 ∧ off.toNat / 16 < s.cfg.heapCap) ∨ (seg = 15 ∧ off.toNat < s.cfg.ioPorts)) :
    ∃ u, s.memWrite (shortAddress seg off) [v] = .ok u ∧
      u.heapLen = if seg = 1 then max s.heapLen (off.toNat / 16 + 1) else s.heapLen := by
  rcases h with ⟨rfl, hcap⟩ | ⟨rfl, hport⟩
  · have hseg : segmentOf (shortAddress 1 off) = some .stateHeap := segmentOf_shortAddress_iff.2 rfl
    refine ⟨_, memWrite_stateHeap hseg ((lastState_shortAddress 1 off).symm ▸ hcap), ?_⟩
    rw [State.storeBytes_heapLen, growHeap_heapLen, List.length_singleton, lastState_shortAddress, if_pos rfl]
  · have hseg : segmentOf (shortAddress 15 off) = some .ioMapped := segmentOf_shortAddress_iff.2 rfl
    exact ⟨_, memWrite_ioMapped hseg (by simpa using hport), rfl⟩

theorem memWrite_shortAddress_overflow (v : Byte) (hseg : seg = 1) (hcap : ¬off.toNat / 16 < s.cfg.heapCap) :
    s.memWrite (shortAddress seg off) [v] = .error ⟨.heapOverflow, shortAddress seg off⟩ := by
  refine memWrite_heapOverflow (segmentOf_shortAddress_iff.2 hseg) ?_
  rw [List.length_singleton, lastState_shortAddress]
  exact not_lt.1 hcap

theorem memWrite_shortAddress_outOfBounds (v : Byte) (hcode : seg ≠ 0) (hheap : seg ≠ 1) (hstack : seg ≠ 2)
    (hports : seg = 15 → ¬off.toNat < s.cfg.ioPorts) :
    s.memWrite (shortAddress seg off) [v] = .error ⟨.addressOutOfBounds, shortAddress seg off⟩ := by
  refine memWrite_outOfBounds (List.cons_ne_nil _ _) (mt segmentOf_shortAddress_iff.1 hcode)
    (mt segmentOf_shortAddress_iff.1 hheap) (mt segmentOf_shortAddress_iff.1 hstack) fun hio => ?_
  have hport := hports (segmentOf_shortAddress_iff.1 hio)
  rw [offsetOf_shortAddress, List.length_singleton]
  omega

theorem memWrite_shortAddress_read (hmem : s.MemInv) (hcap : s.CapInv) {v : Byte}
    (hu : s.memWrite (shortAddress seg off) [v] = .ok u) (b : Nat) :
    u.mem.read b = if b = (shortAddress seg off).toNat then v else s.mem.read b := by
  split
  next hb =>
    subst hb
    exact memWrite_read_stored (j := 0) hmem.1 (List.cons_ne_nil _ _) hu Nat.one_pos
  next hb =>
    exact memWrite_read_other hmem hcap (List.cons_ne_nil _ _) hu (by rw [List.length_singleton]; omega)

/-- Settles O34: the accepted stores by the reads after a data write, the refused ones by segment. -/
theorem storeWritesOneByte : Obligations.StoreWritesOneByte := by
  intro seg r off s hmem hcap
  refine ⟨decode_opcode_operands (i := .store seg r off) rfl rfl, ?_⟩
  split
  next haccepted =>
    obtain ⟨u, hu, hlen⟩ := memWrite_shortAddress_ok (s.reg r) haccepted
    have hvs : [s.reg r] ≠ [] := List.cons_ne_nil _ _
    refine ⟨_, attempt_of_ok s _ hu, (memWrite_shortAddress_read hmem hcap hu :), fun b _ hlo hhi hb => ?_, hlen,
      memWrite_advance_frame .dm hvs hu⟩
    exact memWrite_read_new hmem hcap hvs hu (by rw [List.length_singleton]; omega) hlo hhi
  next hrefused =>
    split_ifs with hperm hheap
    · exact raisedOnly_attempt s _ (memWrite_invalidSegment
        (hperm.imp segmentOf_shortAddress_iff.2 segmentOf_shortAddress_iff.2))
    · exact raisedOnly_attempt s _ (memWrite_shortAddress_overflow _ hheap fun hcap => hrefused (.inl ⟨hheap, hcap⟩))
    · obtain ⟨hcode, hstack⟩ := not_or.1 hperm
      exact raisedOnly_attempt s _ (memWrite_shortAddress_outOfBounds _ hcode hheap hstack
        fun hio hport => hrefused (.inr ⟨hio, hport⟩))

end Store

/-! ### `PUSH` and `POP` (R125, R126) -/

theorem exec_push_of_full {s : State} (r : Reg) (h : s.vs.length = s.cfg.vstackCap) :
    exec (.push r) s = .next (s.raise .stackOverflow 0) := if_pos h

theorem exec_push_of_not_full {s : State} (r : Reg) (h : s.vs.length ≠ s.cfg.vstackCap) :
    exec (.push r) s = .next { s with vs := s.vs ++ [s.reg r], pc := s.pc + 2 } := if_neg h

theorem exec_pop_of_empty {s : State} (d : Reg) (h : s.vs = []) :
    exec (.pop d) s = .next (s.raise .stackUnderflow 0) := by
  simp only [exec, execPop, h, List.getLast?_nil]

theorem exec_pop_of_top {s : State} {below : List Byte} {v : Byte} (d : Reg) (h : s.vs = below ++ [v]) :
    exec (.pop d) s = .next { s.setReg d v with vs := below, pc := s.pc + 2 } := by
  simp only [exec, execPop, h, List.getLast?_concat, List.dropLast_concat]
  rfl

/-- Settles O35, by the capacity test and by whether there is a top byte. -/
theorem pushAppendsAndPopTakesTheLast : Obligations.PushAppendsAndPopTakesTheLast := by
  intro r s
  refine ⟨⟨decode_opcode_operands (i := .push r) rfl rfl, fun hroom => ⟨_, exec_push_of_not_full r hroom, rfl⟩,
    fun hfull => ?_⟩, decode_opcode_operands (i := .pop r) rfl rfl, fun below v htop => ?_, fun hempty => ?_⟩
  · rw [exec_push_of_full r hfull]
    exact raisedOnly_raise s _ _
  · exact ⟨_, exec_pop_of_top r htop, s.setReg_reg_self r v, fun _ hj => s.setReg_reg_ne r v hj, rfl⟩
  · rw [exec_pop_of_empty r hempty]
    exact raisedOnly_raise s _ _

/-! ### `LSTATE` and `SSTATE` (R127, R128) -/

section WholeState

variable {s u : State} {k : BitVec 24}

theorem exec_lstate_of_lt (h : k.toNat < s.heapLen) : exec (.lstate k) s =
    .next ((s.setRegs fun j => s.mem.read ((stateAddress k).toNat + j.val)).advance .da) := by
  have hread : s.memRead (stateAddress k) 16 = .ok (s.mem.readBytes (stateAddress k).toNat 16) :=
    memRead_of_readable (readable_stateAddress_iff.2 h)
  refine (attempt_of_ok s _ hread).trans ?_
  simp only [Memory.readBytes_getD, Fin.is_lt]

/-- Writing the register file and `pc` is all that a completed `LSTATE` does. -/
theorem writeState_advance_frame (s : State) (v : Vector Byte 16) (f : Format) : (writeState v s).advance f =
    { s with regs := ((writeState v s).advance f).regs, pc := s.pc + BitVec.ofNat 32 f.width } := rfl

/-- Settles O36, by whether the state exists. -/
theorem lstateReadsAWholeState : Obligations.LstateReadsAWholeState := by
  intro b1 b2 b3 s k
  refine ⟨decode_opcode_operands (i := .lstate k) rfl (bytes24_imm24 b1 b2 b3), fun hexists => ?_, fun hmissing => ?_⟩
  · refine ⟨_, exec_lstate_of_lt hexists, fun j => ?_, writeState_advance_frame s _ .da⟩
    rw [State.advance_reg, State.setRegs_reg, stateAddress_toNat]
    rfl
  · have hperm : segmentOf (stateAddress k) ≠ some .callStack := by simp
    exact raisedOnly_attempt s _
      (memRead_outOfBounds hperm (mt readable_stateAddress_iff.1 (not_lt.2 hmissing)))

/-- The sixteen registers as the bytes that `SSTATE` stores. -/
def registerBytes (s : State) : List Byte := allLayers.map s.reg

theorem registerBytes_length (s : State) : (registerBytes s).length = 16 := rfl

theorem registerBytes_getD (s : State) (j : Reg) : (registerBytes s).getD j.val 0 = s.reg j := by
  fin_cases j <;> rfl

theorem registerBytes_ne_nil (s : State) : registerBytes s ≠ [] := List.cons_ne_nil _ _

theorem lastState_stateAddress (k : BitVec 24) : lastState (stateAddress k) 16 = k.toNat := by
  rw [lastState, offsetOf_stateAddress]
  omega

/-- Below the capacity of the heap `SSTATE` is a data write that grows the heap to state `k`. -/
theorem exec_sstate_of_lt (h : k.toNat < s.cfg.heapCap) :
    ∃ u, s.memWrite (stateAddress k) (registerBytes s) = .ok u ∧ u.heapLen = max s.heapLen (k.toNat + 1) ∧
      exec (.sstate k) s = .next (u.advance .da) := by
  have hwrite := memWrite_stateHeap (vs := registerBytes s) (segmentOf_stateAddress k)
    ((lastState_stateAddress k).symm ▸ h)
  refine ⟨_, hwrite, ?_, attempt_of_ok s _ hwrite⟩
  rw [State.storeBytes_heapLen, growHeap_heapLen, registerBytes_length, lastState_stateAddress]

theorem registerBytes_read_back (hwf : Memory.wf s.mem)
    (hu : s.memWrite (stateAddress k) (registerBytes s) = .ok u) (j : Reg) :
    u.mem.read ((stateAddress k).toNat + j.val) = s.reg j := by
  rw [memWrite_read_stored hwf (registerBytes_ne_nil s) hu j.isLt, registerBytes_getD]

/-- Settles O37: below the capacity by the reads after a data write, at or beyond it by the overflow. -/
theorem sstateWritesAWholeState : Obligations.SstateWritesAWholeState := by
  intro b1 b2 b3 s hmem hcap k
  refine ⟨decode_opcode_operands (i := .sstate k) rfl (bytes24_imm24 b1 b2 b3), fun hroom => ?_, fun hfull => ?_⟩
  · obtain ⟨u, hu, hlen, hexec⟩ := exec_sstate_of_lt hroom
    have hvs : registerBytes s ≠ [] := registerBytes_ne_nil s
    refine ⟨_, hexec, (registerBytes_read_back hmem.1 hu :), fun b hb => memWrite_read_other hmem hcap hvs hu hb,
      fun b hlo hhi => memWrite_read_new hmem hcap hvs hu (.inl hhi) hlo ?_, hlen,
      memWrite_advance_frame .da hvs hu⟩
    rw [stateAddress_toNat] at hhi
    omega
  · refine raisedOnly_attempt s _ (memWrite_heapOverflow (segmentOf_stateAddress k) ?_)
    exact (lastState_stateAddress k).symm ▸ hfull

/-- Settles O38: after `SSTATE k` state `k` exists and its bytes are the saved registers. -/
theorem lstateRestoresWhatSstateSaved : Obligations.LstateRestoresWhatSstateSaved := by
  intro k s t v hwf hroom hsave
  obtain ⟨u, hu, hlen, hexec⟩ := exec_sstate_of_lt hroom
  cases hexec.symm.trans hsave
  have hexists : k.toNat < (writeState v (u.advance .da)).heapLen := by
    show k.toNat < u.heapLen
    omega
  refine ⟨_, exec_lstate_of_lt hexists, State.regs_ext fun j => ?_⟩
  rw [State.advance_reg, State.setRegs_reg]
  exact registerBytes_read_back hwf hu j

end WholeState

end Sys2Proof.Machine
end

section
/-! SUPPORT and PROOFS. The Arithmetic instructions (42_arithmetic.md, 43_cadd_table.md): the effect of one arithmetic
result on the state, said once, the laws of the unit's operations on bytes, and Cartesian addition with its table. -/

namespace Sys2Proof.Machine

/-! ### The effect of one arithmetic result (R140, R143) -/

theorem arithEffect_setResult (s : State) (d : Reg) (res : Byte × Bool) (f : Format) :
    ArithEffect s ((s.setResult d res).advance f) d (rho res.1) (theta res.1) res.2 f.width :=
  ⟨by simp, by simp, rfl, rfl, writesOneReg_setReg s d res.1 _ _⟩

/-- The fields of a packed result are the numbers packed, the phase modulo 16. -/
theorem arithEffect_pack (s : State) (d : Reg) {r : Int} (hr : -8 ≤ r ∧ r ≤ 7) (t : Int) (o : Bool) (f : Format) :
    ArithEffect s ((s.setResult d (pack r t, o)).advance f) d r (t % 16) o f.width := by
  simpa only [rho_pack hr, theta_pack hr] using arithEffect_setResult s d (pack r t, o) f

theorem arithEffect_narrow (s : State) (d : Reg) (e t : Int) (f : Format) :
    ArithEffect s ((s.setResult d (narrow e t)).advance f) d (sat e) (t % 16) (ovf e) f.width :=
  arithEffect_pack s d (sat_range e) t (ovf e) f

theorem theta_emod (b : Byte) : theta b % 16 = theta b := by
  have := theta_range b; omega

/-! ### `MUL`, `DIV`, `POW`, `INV` (R150 to R152, R154) -/

/-- Settles O13: the result is a narrowed sum. -/
theorem mulAddsExponentsAndPhases : Obligations.MulAddsExponentsAndPhases := fun d r s =>
  ⟨decode_opcode_operands (i := .mul d r) rfl rfl, _, rfl, arithEffect_narrow s d _ _ .c⟩

/-- Settles O14: the result is a narrowed difference, whatever the divisor. -/
theorem divSubtractsExponentsAndPhases : Obligations.DivSubtractsExponentsAndPhases := fun d r s =>
  ⟨decode_opcode_operands (i := .div d r) rfl rfl, _, rfl, arithEffect_narrow s d _ _ .c⟩

/-- Settles O15: the product is formed in full before it is narrowed. -/
theorem powScalesExponentAndPhase : Obligations.PowScalesExponentAndPhase := fun d n s =>
  ⟨decode_opcode_operands (i := .pow d n) rfl rfl, _, rfl, arithEffect_narrow s d _ _ .c⟩

/-- Settles O17: the result is a narrowed negative. -/
theorem invNegatesExponentAndPhase : Obligations.InvNegatesExponentAndPhase := fun d s =>
  ⟨decode_opcode_operands (i := .inv d) rfl rfl, _, rfl, arithEffect_narrow s d _ _ .b⟩

/-! ### `CONJ`, `MAG`, `PHASE` (R155 to R157) -/

/-- Settles O18: each packs an exponent in range, and the phases kept or cleared are already below 16. -/
theorem conjMagPhaseExtract : Obligations.ConjMagPhaseExtract := by
  intro d s
  refine ⟨⟨decode_opcode_operands (i := .conj d) rfl rfl, _, rfl, ?_⟩,
    ⟨decode_opcode_operands (i := .mag d) rfl rfl, _, rfl, ?_⟩,
    decode_opcode_operands (i := .phase d) rfl rfl, _, rfl, ?_⟩
  · exact arithEffect_pack s d (rho_range _) _ false .b
  · exact arithEffect_pack s d (rho_range _) 0 false .b
  · have heffect := arithEffect_pack s d (r := 0) (by decide) (theta (s.reg d)) false .b
    rwa [theta_emod] at heffect

/-! ### `SCALE`, `ROTATE` (R158, R159) -/

theorem sext_eq_toInt (b : Byte) : sext b = b.toInt := by
  rw [BitVec.toInt_eq_toNat_cond, sext]
  split_ifs <;> omega

/-- A phase does not see whether the byte added to it is read signed or unsigned. -/
theorem add_toInt_emod (t : Int) (b : Byte) : (t + b.toInt) % 16 = (t + b.toNat) % 16 := by
  rw [BitVec.toInt_eq_toNat_cond]
  split_ifs <;> omega

/-- Settles O19: the model's `sext` is the signed value. -/
theorem scaleAndRotateBySignedByte : Obligations.ScaleAndRotateBySignedByte := by
  intro d v s
  have hscale := arithEffect_narrow s d (rho (s.reg d) + sext v) (theta (s.reg d)) .c
  have hrotate := arithEffect_pack s d (rho_range (s.reg d)) (theta (s.reg d) + sext v) false .c
  rw [theta_emod] at hscale
  rw [← add_toInt_emod, ← sext_eq_toInt]
  exact ⟨⟨decode_opcode_operands (i := .scale d v) rfl rfl, _, rfl, hscale⟩,
    decode_opcode_operands (i := .rotate d v) rfl rfl, _, rfl, hrotate, hrotate⟩

/-! ### `ROOT` (R153) -/

/-- Division toward zero by the floor division of the magnitude. -/
theorem tdiv_eq_ite (r n : Int) : Int.tdiv r n = if 0 ≤ r then r / n else -(-r / n) := by
  split_ifs with hr
  · exact Int.tdiv_eq_ediv_of_nonneg hr
  · rw [← Int.tdiv_eq_ediv_of_nonneg (by omega : 0 ≤ -r), Int.neg_tdiv, neg_neg]

/-- A quotient toward zero is no further from zero than its dividend. -/
theorem tdiv_range {r : Int} (hr : -8 ≤ r ∧ r ≤ 7) (n : Nat) : -8 ≤ Int.tdiv r n ∧ Int.tdiv r n ≤ 7 := by
  rw [tdiv_eq_ite]
  split_ifs with hsign
  · have := Int.ediv_nonneg hsign n.cast_nonneg
    have := Int.ediv_le_self n hsign
    omega
  · have hneg : 0 ≤ -r := by omega
    have := Int.ediv_nonneg hneg n.cast_nonneg
    have := Int.ediv_le_self n hneg
    omega

theorem theta_ediv_emod (b : Byte) (n : Nat) : theta b / n % 16 = theta b / n := by
  have hrange := theta_range b
  have := Int.ediv_nonneg hrange.1 n.cast_nonneg
  have := Int.ediv_le_self n hrange.1
  omega

theorem exec_root_of_ne_zero (d : Reg) {n : Byte} (s : State) (hn : n ≠ 0) :
    exec (.root d n) s = .next ((s.setResult d (rootOp (s.reg d) n)).advance .c) := if_neg hn

theorem exec_root_of_zero (d : Reg) {n : Byte} (s : State) (hn : n = 0) :
    exec (.root d n) s = .next (s.raise .illegalOperand 0x0200) := if_pos hn

/-- Settles O16: neither quotient leaves the range of its field, so nothing is clamped or wrapped. -/
theorem rootDividesExponentAndPhase : Obligations.RootDividesExponentAndPhase := by
  refine ⟨fun d n s hn => ⟨decode_opcode_operands (i := .root d n) (by simpa [Instr.wellFormed] using hn) rfl, _,
    exec_root_of_ne_zero d s hn, ?_⟩, fun d s => ⟨decode_zeroIndexRoot_refused [] ?_, ?_⟩⟩
  · have heffect := arithEffect_pack s d (tdiv_range (rho_range (s.reg d)) n.toNat)
      (theta (s.reg d) / n.toNat) false .c
    rw [theta_ediv_emod] at heffect
    rw [← tdiv_eq_ite]
    exact heffect
  · rw [regByte_toNat]
    exact d.isLt
  · rw [exec_root_of_zero d s rfl]
    exact raisedOnly_raise s _ _

/-! ### Laws of the log-polar operations -/

/-- Only the phase modulo 16 matters to a packed result. -/
theorem pack_congr (r : Int) {t t' : Int} (h : t % 16 = t' % 16) : pack r t = pack r t' := by
  rw [← pack_emod r t, h, pack_emod]

theorem narrow_congr (e : Int) {t t' : Int} (h : t % 16 = t' % 16) : narrow e t = narrow e t' :=
  congrArg (·, ovf e) (pack_congr (sat e) h)

theorem narrow_of_range {e : Int} (h : -8 ≤ e ∧ e ≤ 7) (t : Int) : narrow e t = (pack e t, false) := by
  rw [narrow, sat_of_range h, (ovf_eq_false_iff e).2 h]

/-- A byte is the result of its own fields, to which a multiple of 16 phase steps may be added. -/
theorem narrow_fields (b : Byte) {t : Int} (h : t % 16 = theta b) : narrow (rho b) t = (b, false) := by
  rw [narrow_of_range (rho_range b), pack_congr (t' := theta b) (rho b) (by rw [h, theta_emod]), pack_rho_theta]

theorem mulOp_comm (a b : Byte) : mulOp a b = mulOp b a := by
  rw [mulOp, mulOp, Int.add_comm (rho a), Int.add_comm (theta a)]

theorem mulOp_one (a : Byte) : mulOp a one = (a, false) := by
  have hrho : rho one = 0 := by decide
  have htheta : theta one = 0 := by decide
  rw [mulOp, hrho, htheta, Int.add_zero]
  exact narrow_fields a (by rw [Int.add_zero, theta_emod])

theorem divOp_self (a : Byte) : divOp a a = (one, false) := by
  rw [divOp, Int.sub_self, Int.sub_self]
  decide

/-- Every exponent but the lowest has its negative in range (R154). -/
theorem invOp_of_ne_null {b : Byte} (h : rho b ≠ -8) : invOp b = (pack (-rho b) (-theta b), false) :=
  narrow_of_range (by have := rho_range b; omega) _

theorem rho_invOp {b : Byte} (h : rho b ≠ -8) : rho (invOp b).1 = -rho b := by
  rw [invOp_of_ne_null h]
  exact rho_pack (by have := rho_range b; omega) _

theorem theta_invOp (b : Byte) : theta (invOp b).1 = (-theta b) % 16 := theta_pack_sat _ _

theorem invOp_invOp {b : Byte} (h : rho b ≠ -8) : invOp (invOp b).1 = (b, false) := by
  have := theta_range b
  rw [invOp, rho_invOp h, theta_invOp, Int.neg_neg]
  exact narrow_fields b (by omega)

theorem divOp_eq_mulOp_invOp (a : Byte) {b : Byte} (h : rho b ≠ -8) : divOp a b = mulOp a (invOp b).1 := by
  rw [divOp, mulOp, rho_invOp h, theta_invOp, ← Int.sub_eq_add_neg]
  exact narrow_congr _ (by omega)

theorem conjOp_conjOp (a : Byte) : conjOp (conjOp a).1 = (a, false) := by
  have := theta_range a
  simp only [conjOp, rho_pack_rho, theta_pack_rho]
  rw [← narrow_of_range (rho_range a)]
  exact narrow_fields a (by omega)

theorem powOp_zero (a : Byte) : powOp a 0 = (one, false) := by
  have hzero : ((0 : Byte).toNat : Int) = 0 := rfl
  rw [powOp, hzero, Int.mul_zero, Int.mul_zero]
  decide

theorem powOp_one (a : Byte) : powOp a 1 = (a, false) := by
  have hone : ((1 : Byte).toNat : Int) = 1 := rfl
  rw [powOp, hone, Int.mul_one, Int.mul_one]
  exact narrow_fields a (theta_emod a)

theorem powOp_two (a : Byte) : powOp a 2 = mulOp a a := by
  have htwo : ((2 : Byte).toNat : Int) = 2 := rfl
  rw [powOp, htwo, mulOp, mul_two, mul_two]

theorem rootOp_one (a : Byte) : rootOp a 1 = (a, false) := by
  have hone : ((1 : Byte).toNat : Int) = 1 := rfl
  rw [rootOp, hone, Int.tdiv_one, Int.ediv_one, pack_rho_theta]

theorem mulOp_magOp_phaseOp (a : Byte) : mulOp (magOp a).1 (phaseOp a).1 = (a, false) := by
  have hzero : (-8 : Int) ≤ 0 ∧ (0 : Int) ≤ 7 := by decide
  simp only [mulOp, magOp, phaseOp, rho_pack_rho, theta_pack_rho, rho_pack hzero, theta_pack hzero, Int.add_zero]
  exact narrow_fields a (by have := theta_range a; omega)

/-- Settles O23, by the laws above. -/
theorem arithmeticUnitIdentities : Obligations.ArithmeticUnitIdentities := fun a b =>
  ⟨mulOp_one a, mulOp_comm a b, divOp_self a, fun h => ⟨invOp_invOp h, divOp_eq_mulOp_invOp a h⟩, conjOp_conjOp a,
    powOp_zero a, powOp_one a, powOp_two a, rootOp_one a, mulOp_magOp_phaseOp a⟩

/-! ### `DIV` after `MUL` (R151) -/

/-- A clamped sum has lost what would lead back to its first part. -/
theorem sat_sat_add_sub_eq_iff {a b : Int} (ha : -8 ≤ a ∧ a ≤ 7) (hb : -8 ≤ b ∧ b ≤ 7) :
    sat (sat (a + b) - b) = a ↔ -8 ≤ a + b ∧ a + b ≤ 7 := by
  unfold sat
  split_ifs <;> omega

theorem divOp_mulOp_of_not_ovf {a b : Byte} (h : (mulOp a b).2 = false) : divOp (mulOp a b).1 b = (a, false) := by
  have hsum := (ovf_eq_false_iff _).1 h
  have := theta_range a
  rw [divOp, mulOp, narrow_of_range hsum, rho_pack hsum, theta_pack hsum, Int.add_sub_cancel]
  exact narrow_fields a (by omega)

/-- The converse: an undone product was not clamped. -/
theorem not_ovf_of_divOp_mulOp {a b : Byte} (h : (divOp (mulOp a b).1 b).1 = a) : (mulOp a b).2 = false := by
  have hrho : sat (sat (rho a + rho b) - rho b) = rho a := by
    simpa [divOp, mulOp, narrow] using congrArg rho h
  exact (ovf_eq_false_iff _).2 ((sat_sat_add_sub_eq_iff (rho_range a) (rho_range b)).1 hrho)

/-- Settles O22: the `MUL` leaves the divisor in place, so the `DIV` divides by the same byte. -/
theorem divUndoesMulExactlyWithoutOverflow : Obligations.DivUndoesMulExactlyWithoutOverflow := by
  intro d r s t u hne hmul hdiv
  cases hmul
  cases hdiv
  simp only [State.advance_reg, State.advance_sr, State.setResult_reg_self, State.setResult_reg_ne s d _ hne.symm,
    State.setResult_sr, SR.setZNO_o]
  exact ⟨⟨not_ovf_of_divOp_mulOp, fun h => congrArg Prod.fst (divOp_mulOp_of_not_ovf h)⟩,
    fun h => congrArg Prod.snd (divOp_mulOp_of_not_ovf h)⟩

/-! ### Rotation by phase steps and the lookup (R162, R181) -/

/-- `rot(v, k)` of R162: the byte turned by `k` phase steps. -/
def turn (b : Byte) (k : Int) : Byte := pack (rho b) (theta b + k)

@[simp] theorem rho_turn (b : Byte) (k : Int) : rho (turn b k) = rho b := rho_pack_rho b _

@[simp] theorem theta_turn (b : Byte) (k : Int) : theta (turn b k) = (theta b + k) % 16 := theta_pack_rho b _

theorem turn_congr (b : Byte) {j k : Int} (h : j % 16 = k % 16) : turn b j = turn b k :=
  pack_congr (rho b) (by omega)

@[simp] theorem turn_turn (b : Byte) (j k : Int) : turn (turn b j) k = turn b (j + k) := by
  simp only [turn, rho_pack_rho, theta_pack_rho]
  exact pack_congr (rho b) (by omega)

theorem negate_eq_turn (b : Byte) : negate b = turn b 8 := rfl

theorem rho_eq_highNibble (b : Byte) : rho b = (highNibble b).val - 8 := rfl

theorem theta_eq_lowNibble (b : Byte) : theta b = (lowNibble b).val := rfl

/-- The phase difference by which the sum of `a` and `b` is looked up (R181). -/
def phaseGap (a b : Byte) : Reg := lowNibble b - lowNibble a

theorem phaseGap_swap (a b : Byte) : phaseGap b a = -phaseGap a b := (neg_sub _ _).symm

theorem phaseGap_val (a b : Byte) : ((phaseGap a b).val : Int) = (theta b - theta a) % 16 := by
  rw [theta_eq_lowNibble, theta_eq_lowNibble, phaseGap, Fin.val_sub]; omega

theorem phaseGap_toNat (a b : Byte) : ((theta b - theta a) % 16).toNat = (phaseGap a b).val := by
  rw [← phaseGap_val, Int.toNat_natCast]

theorem phaseGap_turn (a b : Byte) (k : Int) : phaseGap (turn a k) (turn b k) = phaseGap a b := by
  have hval := phaseGap_val (turn a k) (turn b k)
  have := phaseGap_val a b
  rw [theta_turn, theta_turn] at hval
  exact Fin.ext (by omega)

theorem rho_eq_iff_highNibble_eq {a b : Byte} : rho a = rho b ↔ highNibble a = highNibble b := by
  rw [rho_eq_highNibble, rho_eq_highNibble, Fin.ext_iff]; omega

theorem highNibble_turn (b : Byte) (k : Int) : highNibble (turn b k) = highNibble b :=
  rho_eq_iff_highNibble_eq.1 (rho_turn b k)

/-- The exact zero of R162: equal magnitudes in opposite directions. -/
abbrev Cancels (a b : Byte) : Prop := rho a = rho b ∧ (theta b - theta a) % 16 = 8

theorem cancels_comm (a b : Byte) : Cancels a b ↔ Cancels b a := by
  simp only [Cancels]; omega

theorem cancels_turn (a b : Byte) (k : Int) : Cancels (turn a k) (turn b k) ↔ Cancels a b := by
  simp only [Cancels, rho_turn, theta_turn]; omega

theorem cadd_of_cancels {a b : Byte} (h : Cancels a b) : cadd a b = (0x00, false) :=
  if_pos ⟨h.1, by omega⟩

/-- The lookup of R181: the table's entry, turned by the first operand's phase, and its star. -/
theorem cadd_of_not_cancels {a b : Byte} (h : ¬Cancels a b) :
    cadd a b = (turn (caddEntry (highNibble a).val (highNibble b).val (phaseGap a b).val) (theta a),
      caddStar (rho a) (rho b) (phaseGap a b).val) := by
  rw [← phaseGap_toNat]
  exact if_neg fun hc => h ⟨hc.1, by omega⟩

/-- Settles O25: a turn changes neither the row, the column nor the gap of the lookup. -/
theorem cartesianAddRotates : Obligations.CartesianAddRotates := by
  intro a b k
  change cadd (turn a k) (turn b k) = if Cancels a b then (0x00, false) else (turn (cadd a b).1 k, (cadd a b).2)
  have hturn := cancels_turn a b k
  split_ifs with h
  · exact cadd_of_cancels (hturn.2 h)
  · rw [cadd_of_not_cancels (mt hturn.1 h), cadd_of_not_cancels h, highNibble_turn, highNibble_turn, phaseGap_turn,
      rho_turn, rho_turn, turn_turn, theta_turn]
    exact Prod.ext (turn_congr _ (by omega)) rfl

/-! ### Commutativity over the table (R183) -/

/-- R183 (a) on the numbers of the table, which no formula gives: every entry is compared with the mirrored one. -/
theorem caddEntry_mirror_toNat : ∀ ra rb d : Reg, ¬(ra = rb ∧ d = 8) →
    (caddEntry ra.val rb.val d.val).toNat / 16 = (caddEntry rb.val ra.val (-d).val).toNat / 16 ∧
    (caddEntry ra.val rb.val d.val).toNat % 16 = ((caddEntry rb.val ra.val (-d).val).toNat + d.val) % 16 := by
  decide

/-- R183 (a): a sum looked up from the other operand's side differs by the turn between the two. -/
theorem caddEntry_mirror {ra rb d : Reg} (h : ¬(ra = rb ∧ d = 8)) :
    caddEntry ra.val rb.val d.val = turn (caddEntry rb.val ra.val (-d).val) d.val := by
  obtain ⟨hhigh, hlow⟩ := caddEntry_mirror_toNat ra rb d h
  refine byte_ext ?_ ?_
  · rw [rho_turn, rho, rho, hhigh]
  · rw [theta_turn, theta, theta, hlow]; omega

theorem caddStar_mirror (ra rb : Int) (d : Reg) : caddStar ra rb d.val = caddStar rb ra (-d).val := by
  have hlow : (d.val = 7 ∨ d.val = 9) ↔ ((-d).val = 7 ∨ (-d).val = 9) := by revert d; decide
  have hhigh : (d.val ≤ 3 ∨ 13 ≤ d.val) ↔ ((-d).val ≤ 3 ∨ 13 ≤ (-d).val) := by revert d; decide
  rw [Bool.eq_iff_iff]
  simp only [caddStar, Bool.or_eq_true, Bool.and_eq_true, beq_iff_eq, decide_eq_true_eq, hlow, hhigh,
    and_comm (a := ra = _)]

/-- Settles O24: the two lookups are mirrored, and each is turned by its own first operand. -/
theorem cartesianAddCommutes : Obligations.CartesianAddCommutes := by
  intro a b
  by_cases h : Cancels a b
  · rw [cadd_of_cancels h, cadd_of_cancels ((cancels_comm a b).1 h)]
  · have hgap := phaseGap_val a b
    have hentry : ¬(highNibble a = highNibble b ∧ phaseGap a b = 8) := by
      rintro ⟨hrow, height⟩
      rw [height] at hgap
      exact h ⟨rho_eq_iff_highNibble_eq.2 hrow, hgap.symm⟩
    rw [cadd_of_not_cancels h, cadd_of_not_cancels (mt (cancels_comm a b).2 h), phaseGap_swap a b,
      ← caddStar_mirror, caddEntry_mirror hentry, turn_turn]
    exact Prod.ext (turn_congr _ (by omega)) rfl

/-! ### `ADD`, `SUB` (R165, R166) -/

/-- The effect of writing a sum, in the terms of the lookup. -/
theorem arithEffect_cadd (s : State) (d : Reg) (a b : Byte) :
    let n := (theta b - theta a) % 16
    let e := caddEntry (rho a + 8).toNat (rho b + 8).toNat n.toNat
    if rho a = rho b ∧ n = 8 then ArithEffect s ((s.setResult d (cadd a b)).advance .c) d (-8) 0 false 3
    else ArithEffect s ((s.setResult d (cadd a b)).advance .c) d (rho e) ((theta e + theta a) % 16)
      (caddStar (rho a) (rho b) n.toNat) 3 := by
  have hindex (c : Byte) : (rho c + 8).toNat = (highNibble c).val := by rw [rho_eq_highNibble]; omega
  simp only [hindex, phaseGap_toNat]
  split_ifs with h
  · rw [cadd_of_cancels h]
    exact arithEffect_setResult s d (0x00, false) .c
  · rw [cadd_of_not_cancels h]
    exact arithEffect_pack s d (rho_range _) _ _ .c

/-- Settles O20: the operands of the lookup are the two registers as they stand. -/
theorem addLooksUpTheTable : Obligations.AddLooksUpTheTable := fun d r s =>
  ⟨decode_opcode_operands (i := .add d r) rfl rfl, _, rfl, arithEffect_cadd s d (s.reg d) (s.reg r)⟩

/-- Settles O21: the operand's negative has its exponent and a phase eight steps on, so it cancels an equal operand. -/
theorem subAddsTheNegative : Obligations.SubAddsTheNegative := by
  intro d r s
  refine ⟨decode_opcode_operands (i := .sub d r) rfl rfl, _, rfl, ?_⟩
  have heffect := arithEffect_cadd s d (s.reg d) (negate (s.reg r))
  have hgap : ((theta (s.reg r) + 8) % 16 - theta (s.reg d)) % 16 = (theta (s.reg r) + 8 - theta (s.reg d)) % 16 := by
    omega
  have hequal : (theta (s.reg r) + 8 - theta (s.reg d)) % 16 = 8 ↔ theta (s.reg r) = theta (s.reg d) := by
    have := theta_range (s.reg r); have := theta_range (s.reg d); omega
  simpa only [negate_eq_turn, rho_turn, theta_turn, hgap, hequal] using heffect

end Sys2Proof.Machine
end

section
/-! SUPPORT and PROOFS. The self-checks of the table of Cartesian addition (43_cadd_table.md R182, R183). The table
is given by its numbers, so a check on it ends in comparing entries; commutativity (`caddEntry_mirror`) leaves only
the entries with `rb ≤ ra` to compare, and a much larger first operand only one value for each `ra`. -/

namespace Sys2Proof.Machine

/-! ### The overflow entries and the entries of equal exponents (R182, R183 (d)) -/

theorem caddStar_iff (ra rb d : Reg) :
    caddStar ((ra.val : Int) - 8) ((rb.val : Int) - 8) d.val = true ↔
      (ra = 0 ∧ rb = 0 ∧ (d.val = 7 ∨ d.val = 9)) ∨ (ra = 15 ∧ rb = 15 ∧ (d.val ≤ 3 ∨ 13 ≤ d.val)) := by
  have hlowest (r : Reg) : (r.val : Int) - 8 = -8 ↔ r = 0 := by rw [Fin.ext_iff, Fin.val_zero]; omega
  have hhighest (r : Reg) : (r.val : Int) - 8 = 7 ↔ r = 15 := by
    rw [Fin.ext_iff, show (15 : Reg).val = 15 from rfl]; omega
  simp only [caddStar, Bool.or_eq_true, Bool.and_eq_true, beq_iff_eq, decide_eq_true_eq, hlowest, hhighest, and_assoc]

theorem caddStar_iff_mem (ra rb d : Reg) :
    caddStar ((ra.val : Int) - 8) ((rb.val : Int) - 8) d.val = true ↔
      (ra, rb, d) ∈ ([(0, 0, 7), (0, 0, 9), (15, 15, 0), (15, 15, 1), (15, 15, 2), (15, 15, 3), (15, 15, 13),
        (15, 15, 14), (15, 15, 15)] : List (Reg × Reg × Reg)) := by
  have hunder : (d.val = 7 ∨ d.val = 9) ↔ (d = 7 ∨ d = 9) := by revert d; decide
  have hover : (d.val ≤ 3 ∨ 13 ≤ d.val) ↔ (d = 0 ∨ d = 1 ∨ d = 2 ∨ d = 3 ∨ d = 13 ∨ d = 14 ∨ d = 15) := by
    revert d; decide
  rw [caddStar_iff, hunder, hover]
  simp only [List.mem_cons, List.not_mem_nil, Prod.mk.injEq, or_false, and_or_left, or_assoc]

theorem caddEntry_opposite (r : Reg) : caddEntry r.val r.val 8 = 0x00 := by
  revert r; decide

theorem caddEntry_double (r : Reg) (h : r.val < 15) : caddEntry r.val r.val 0 = pack ((r.val : Int) - 7) 0 := by
  revert r; decide

/-! ### A much larger first operand (R183 (c)) -/

theorem caddEntry_toNat_of_add_two_le : ∀ ra rb d : Reg, rb.val + 2 ≤ ra.val →
    (caddEntry ra.val rb.val d.val).toNat = ra.val * 16 := by
  decide

theorem caddEntry_of_add_two_le {ra rb : Reg} (d : Reg) (h : rb.val + 2 ≤ ra.val) :
    caddEntry ra.val rb.val d.val = pack ((ra.val : Int) - 8) 0 := by
  apply BitVec.eq_of_toNat_eq
  rw [caddEntry_toNat_of_add_two_le ra rb d h, pack_toNat (by omega)]
  omega

/-! ### Mirror symmetry (R183 (b)) -/

/-- One byte is the mirror image of the other in the real axis: equal magnitude, opposite phase. -/
abbrev Mirrored (a b : Byte) : Prop := rho a = rho b ∧ theta a = (-theta b) % 16

theorem mirrored_pack_zero (r : Int) (h : -8 ≤ r ∧ r ≤ 7) : Mirrored (pack r 0) (pack r 0) :=
  ⟨rfl, by rw [theta_pack h]; rfl⟩

/-- Turning two mirror images by opposite amounts keeps them mirror images. -/
theorem Mirrored.turn_neg {a b : Byte} (h : Mirrored a b) (k : Int) : Mirrored (turn a k) (turn b (-k)) := by
  obtain ⟨hrho, htheta⟩ := h
  refine ⟨by rw [rho_turn, rho_turn, hrho], ?_⟩
  rw [theta_turn, theta_turn, htheta]
  omega

/-- Equal exponents: away from the ties of R164 the rounding of the phase is symmetric. -/
theorem caddEntry_neg_self : ∀ r d : Reg, d.val % 2 ≠ 1 →
    Mirrored (caddEntry r.val r.val (-d).val) (caddEntry r.val r.val d.val) := by
  decide

theorem caddEntry_neg_of_eq_add_one : ∀ ra rb d : Reg, ra.val = rb.val + 1 →
    Mirrored (caddEntry ra.val rb.val (-d).val) (caddEntry ra.val rb.val d.val) := by
  decide

theorem caddEntry_neg_of_lt {ra rb : Reg} (d : Reg) (h : rb.val < ra.val) :
    Mirrored (caddEntry ra.val rb.val (-d).val) (caddEntry ra.val rb.val d.val) := by
  rcases (show ra.val = rb.val + 1 ∨ rb.val + 2 ≤ ra.val by omega) with hnext | hfar
  · exact caddEntry_neg_of_eq_add_one ra rb d hnext
  · rw [caddEntry_of_add_two_le _ hfar, caddEntry_of_add_two_le _ hfar]
    exact mirrored_pack_zero _ (by omega)

/-- A larger second operand, by commutativity: the two sums are the mirror images of the swapped table, turned by
`-d` and by `d`. -/
theorem caddEntry_neg_of_gt {ra rb : Reg} (d : Reg) (h : ra.val < rb.val) :
    Mirrored (caddEntry ra.val rb.val (-d).val) (caddEntry ra.val rb.val d.val) := by
  have hne (e : Reg) : ¬(ra = rb ∧ e = 8) := fun heq => by rw [heq.1] at h; omega
  have hneg : (((-d).val : Nat) : Int) % 16 = (-(d.val : Int)) % 16 := by rw [Fin.val_neg']; omega
  rw [caddEntry_mirror (hne (-d)), caddEntry_mirror (hne d), turn_congr _ hneg]
  simpa using (caddEntry_neg_of_lt (-d) h).turn_neg (-(d.val : Int))

theorem caddEntry_neg {ra rb d : Reg} (h : ¬(ra = rb ∧ d.val % 2 = 1)) :
    Mirrored (caddEntry ra.val rb.val (-d).val) (caddEntry ra.val rb.val d.val) := by
  rcases Nat.lt_trichotomy ra.val rb.val with hlt | heq | hgt
  · exact caddEntry_neg_of_gt d hlt
  · obtain rfl := Fin.ext heq
    exact caddEntry_neg_self ra d fun hodd => h ⟨rfl, hodd⟩
  · exact caddEntry_neg_of_lt d hgt

/-- Settles O26, by the checks above. -/
theorem cartesianTableSelfChecks : Obligations.CartesianTableSelfChecks := by
  intro ra rb d
  refine ⟨caddStar_iff_mem ra rb d, ?_, caddEntry_neg, caddEntry_of_add_two_le d, ?_⟩
  · rintro rfl rfl
    exact caddEntry_opposite ra
  · rintro rfl hlt rfl
    exact caddEntry_double ra hlt

end Sys2Proof.Machine
end

section
/-! SUPPORT and PROOFS. The Layer instructions (44_layer.md): the bits of a reduction over any list of layers, the layers
of a range, and what each instruction does to the register file. -/

namespace Sys2Proof.Machine

/-! ### The bits of a reduction (R186 to R188, R193) -/

section Reduce

variable (s : State) (k : Nat)

/-- The layers of a list whose bit `k` is set. -/
def layersWithBit (ls : List Reg) : List Reg := ls.filter fun i => (s.reg i).getLsbD k

theorem reduce_cons (op : Byte → Byte → Byte) (start : Byte) (i : Reg) (ls : List Reg) :
    s.reduce op start (i :: ls) = s.reduce op (op start (s.reg i)) ls := rfl

theorem layersWithBit_cons_length (i : Reg) (ls : List Reg) : (layersWithBit s k (i :: ls)).length =
    (layersWithBit s k ls).length + ((s.reg i).getLsbD k).toNat := by
  unfold layersWithBit
  cases hbit : (s.reg i).getLsbD k <;> simp [hbit]

theorem toNat_xor_mod_two : ∀ a b : Bool, (a ^^ b).toNat % 2 = (a.toNat + b.toNat) % 2 := by decide

/-- An exclusive or flips its starting bit once for each layer that has the bit. -/
theorem reduce_xor_getLsbD (start : Byte) (ls : List Reg) : (s.reduce (· ^^^ ·) start ls).getLsbD k =
    decide (((start.getLsbD k).toNat + (layersWithBit s k ls).length) % 2 = 1) := by
  induction ls generalizing start with
  | nil => cases hstart : start.getLsbD k <;> simp [State.reduce, layersWithBit, hstart]
  | cons i ls ih =>
    rw [reduce_cons, ih, layersWithBit_cons_length, BitVec.getLsbD_xor, decide_eq_decide]
    have hflip := toNat_xor_mod_two (start.getLsbD k) ((s.reg i).getLsbD k)
    omega

theorem reduce_and_getLsbD (start : Byte) (ls : List Reg) : (s.reduce (· &&& ·) start ls).getLsbD k = true ↔
    start.getLsbD k = true ∧ ∀ i ∈ ls, (s.reg i).getLsbD k = true := by
  induction ls generalizing start with
  | nil => simp [State.reduce]
  | cons i ls ih => rw [reduce_cons, ih, BitVec.getLsbD_and, Bool.and_eq_true, List.forall_mem_cons, and_assoc]

theorem reduce_or_getLsbD (start : Byte) (ls : List Reg) : (s.reduce (· ||| ·) start ls).getLsbD k = true ↔
    start.getLsbD k = true ∨ ∃ i ∈ ls, (s.reg i).getLsbD k = true := by
  induction ls generalizing start with
  | nil => simp [State.reduce]
  | cons i ls ih => rw [reduce_cons, ih, BitVec.getLsbD_or, Bool.or_eq_true, List.exists_mem_cons_iff, or_assoc]

theorem reduce_xor_zero_getLsbD (ls : List Reg) : (s.reduce (· ^^^ ·) 0x00 ls).getLsbD k =
    decide ((layersWithBit s k ls).length % 2 = 1) := by
  simp [reduce_xor_getLsbD]

theorem reduce_xor_singleton (i : Reg) : s.reduce (· ^^^ ·) 0x00 [i] = s.reg i := BitVec.zero_xor

end Reduce

/-! ### Reductions of all layers (R186 to R188) -/

theorem mem_allLayers (i : Reg) : i ∈ allLayers := by
  revert i; decide

theorem reduce_and_allLayers_getLsbD (s : State) {k : Nat} (hk : k < 8) :
    (s.reduce (· &&& ·) 0xFF allLayers).getLsbD k = true ↔ ∀ i : Reg, (s.reg i).getLsbD k = true := by
  have hones : (0xFF : Byte).getLsbD k = true := (BitVec.getLsbD_allOnes (v := 8)).trans (decide_eq_true hk)
  simp only [reduce_and_getLsbD, hones, mem_allLayers, true_and, forall_const]

theorem reduce_or_allLayers_getLsbD (s : State) (k : Nat) :
    (s.reduce (· ||| ·) 0x00 allLayers).getLsbD k = true ↔ ∃ i : Reg, (s.reg i).getLsbD k = true := by
  simp [reduce_or_getLsbD, mem_allLayers]

theorem setResult_advance_reg (s : State) (d : Reg) (res : Byte × Bool) (f : Format) :
    ((s.setResult d res).advance f).reg d = res.1 := by
  rw [State.advance_reg, State.setResult_reg_self]

/-- A reduction sets the flags of the byte that it writes, and `O` to 0. -/
theorem arithEffect_reduction (s : State) (d : Reg) (v : Byte) (f : Format) :
    ArithEffect s ((s.setResult d (v, false)).advance f) d (rho (((s.setResult d (v, false)).advance f).reg d))
      (theta (((s.setResult d (v, false)).advance f).reg d)) false f.width := by
  simpa only [setResult_advance_reg] using arithEffect_setResult s d (v, false) f

/-- Settles O41, by the bits of the three reductions. -/
theorem reductionsCombineAllLayers : Obligations.ReductionsCombineAllLayers := by
  intro d s
  refine ⟨⟨decode_opcode_operands (i := .xorl d) rfl rfl, _, rfl, fun k _ => ?_, arithEffect_reduction s d _ .b⟩,
    ⟨decode_opcode_operands (i := .andl d) rfl rfl, _, rfl, fun k hk => ?_, arithEffect_reduction s d _ .b⟩,
    decode_opcode_operands (i := .orl d) rfl rfl, _, rfl, fun k _ => ?_, arithEffect_reduction s d _ .b⟩
  · rw [setResult_advance_reg]
    exact reduce_xor_zero_getLsbD s k allLayers
  · rw [setResult_advance_reg]
    exact reduce_and_allLayers_getLsbD s hk
  · rw [setResult_advance_reg]
    exact reduce_or_allLayers_getLsbD s k

/-! ### Writing the whole register file (R189 to R191) -/

theorem setRegs_advance_reg (s : State) (g : Reg → Byte) (f : Format) (j : Reg) :
    ((s.setRegs g).advance f).reg j = g j := by
  rw [State.advance_reg, State.setRegs_reg]

/-- A structural instruction changes registers and `pc` only. -/
theorem setRegs_advance_frame (s : State) (g : Reg → Byte) (f : Format) :
    ((s.setRegs g).advance f).sr = s.sr ∧ ((s.setRegs g).advance f).pc = s.pc + BitVec.ofNat 32 f.width ∧
    SameOutside s ((s.setRegs g).advance f) :=
  ⟨by simp, by simp, by constructor <;> simp⟩

theorem decode_rotl_refused {b : Byte} (h : 16 ≤ b.toNat) : decode [0x63, b] = .error (.illegalOperand 1 b) :=
  decode_registerFirst (f := .b) (rows := [0x63]) (by decide) (List.mem_singleton_self _) (by simp [Format.width]) h

/-- Settles O42: a rotation is a subtraction on the layer index, and the second count is the negative of the first. -/
theorem rotlMovesEveryLayer : Obligations.RotlMovesEveryLayer := by
  intro n b s
  obtain ⟨hsr, hpc, houtside⟩ := setRegs_advance_frame s (fun j => s.reg (j - n)) .b
  refine ⟨decode_opcode_operands (i := .rotl n) rfl rfl, fun hb => decode_rotl_refused (by omega), _, rfl,
    fun i j hj => ?_, hsr, hpc, houtside, fun m hm => ⟨_, rfl, State.regs_ext fun j => ?_⟩⟩
  · obtain rfl : j = i + n := Fin.ext hj
    rw [setRegs_advance_reg, add_sub_cancel_right]
  · obtain rfl : m = -n := Fin.ext (hm.trans (Fin.val_neg' n).symm)
    rw [setRegs_advance_reg, setRegs_advance_reg, sub_neg_eq_add, add_sub_cancel_right]

/-! ### `FOLD` (R190) -/

/-- The layers after a fold, as a function of the layers before it. -/
def foldedLayer (m : FoldMode) (s : State) (i : Reg) : Byte :=
  if i.val < 8 then foldPair m (s.reg i) (s.reg (i + 8)) else s.reg i

theorem exec_fold (m : FoldMode) (s : State) :
    exec (.fold m) s = .next ((s.setRegs (foldedLayer m s)).advance .b) := rfl

theorem foldedLayer_of_lt (m : FoldMode) (s : State) {i : Reg} (h : i.val < 8) :
    foldedLayer m s i = foldPair m (s.reg i) (s.reg (i + 8)) := if_pos h

theorem foldedLayer_of_ge (m : FoldMode) (s : State) {i : Reg} (h : 8 ≤ i.val) : foldedLayer m s i = s.reg i :=
  if_neg (not_lt.2 h)

/-- The partner of a layer below 8 is one of the layers that a fold keeps. -/
theorem val_add_eight {i : Reg} (h : i.val < 8) : (i + 8).val = i.val + 8 := by
  rw [Fin.val_add, show (8 : Reg).val = 8 from rfl]
  omega

/-- Folding by XOR twice restores each layer: `(a ^^^ b) ^^^ b = a`, and `b` was kept. -/
theorem foldedLayer_xor_twice {s t : State} (h : ∀ i, t.reg i = foldedLayer .xor s i) (i : Reg) :
    foldedLayer .xor t i = s.reg i := by
  rcases Nat.lt_or_ge i.val 8 with hlow | hhigh
  · have hkept : t.reg (i + 8) = s.reg (i + 8) := by
      rw [h, foldedLayer_of_ge]
      rw [val_add_eight hlow]; omega
    rw [foldedLayer_of_lt _ _ hlow, hkept, h, foldedLayer_of_lt _ _ hlow]
    simp only [foldPair, BitVec.xor_assoc, BitVec.xor_self, BitVec.xor_zero]
  · rw [foldedLayer_of_ge _ _ hhigh, h, foldedLayer_of_ge _ _ hhigh]

/-- Settles O43, by whether a layer lies below 8. -/
theorem foldCombinesLayerPairs : Obligations.FoldCombinesLayerPairs := by
  refine ⟨decode_opcode_operands (i := .fold .xor) rfl rfl, decode_opcode_operands (i := .fold .cadd) rfl rfl,
    decode_opcode_operands (i := .fold .cmul) rfl rfl, fun b hb => decode_fold_refused [] hb, fun m s => ?_⟩
  obtain ⟨hsr, hpc, houtside⟩ := setRegs_advance_frame s (foldedLayer m s) .b
  refine ⟨_, exec_fold m s, fun i j hi hj => ?_, hsr, hpc, houtside, ?_⟩
  · obtain rfl : j = i + 8 := Fin.ext (hj.trans (val_add_eight hi).symm)
    rw [setRegs_advance_reg, setRegs_advance_reg, foldedLayer_of_lt m s hi, foldedLayer_of_ge m s (by omega)]
    refine ⟨rfl, ?_⟩
    cases m with
    | xor => rfl
    | cadd => rfl
    | cmul => exact ⟨rho_pack_sat _ _, theta_pack_sat _ _⟩
  · rintro rfl
    refine ⟨_, exec_fold .xor _, State.regs_ext fun i => ?_⟩
    rw [setRegs_advance_reg]
    exact foldedLayer_xor_twice (setRegs_advance_reg s _ .b) i

/-! ### Layer ranges (30_encoding.md R82) -/

/-- Layer `i` lies in the range `lo..hi`, counted upward from `lo` modulo 16. -/
abbrev InRange (lo hi i : Reg) : Prop := ((i.val : Int) - lo.val) % 16 ≤ ((hi.val : Int) - lo.val) % 16

theorem mem_layerRange_iff (lo hi i : Reg) : i ∈ layerRange lo hi ↔ InRange lo hi i := by
  have hcount := rangeCount_eq lo hi
  simp only [layerRange, List.mem_map, List.mem_range, Fin.ext_iff, InRange]
  constructor
  · rintro ⟨j, hj, hji⟩
    omega
  · intro h
    exact ⟨(((i.val : Int) - lo.val) % 16).toNat, by omega, by omega⟩

theorem layerRange_nodup (lo hi : Reg) : (layerRange lo hi).Nodup := by
  have hcount := rangeCount_eq lo hi
  refine List.Nodup.map_on (fun j hj k hk hjk => ?_) List.nodup_range
  rw [List.mem_range] at hj hk
  rw [Fin.mk.injEq] at hjk
  omega

/-- A range in the order of its wrapping is a rearrangement of its layers in ascending order. -/
theorem layerRange_perm (lo hi : Reg) : (layerRange lo hi).Perm (allLayers.filter fun i => InRange lo hi i) := by
  rw [List.perm_ext_iff_of_nodup (layerRange_nodup lo hi) (List.Nodup.filter _ (by decide))]
  simp [mem_layerRange_iff, mem_allLayers]

theorem layerRange_self (i : Reg) : layerRange i i = [i] := by
  revert i; decide

theorem layerRange_whole : layerRange 0 15 = allLayers := by decide

/-! ### `SPREAD` and `GATHER` (R191, R192) -/

/-- The layers after a spread, as a function of the layers before it. -/
def spreadLayer (r lo hi : Reg) (s : State) (i : Reg) : Byte := if i ∈ layerRange lo hi then s.reg r else s.reg i

theorem exec_spread (r lo hi : Reg) (s : State) :
    exec (.spread r lo hi) s = .next ((s.setRegs (spreadLayer r lo hi s)).advance .c) := rfl

theorem spreadLayer_of_inRange {lo hi i : Reg} (r : Reg) (s : State) (h : InRange lo hi i) :
    spreadLayer r lo hi s i = s.reg r := if_pos ((mem_layerRange_iff lo hi i).2 h)

theorem spreadLayer_of_not_inRange {lo hi i : Reg} (r : Reg) (s : State) (h : ¬InRange lo hi i) :
    spreadLayer r lo hi s i = s.reg i := if_neg (mt (mem_layerRange_iff lo hi i).1 h)

/-- Settles O44: the model's list of layers is the range. -/
theorem spreadFillsTheRange : Obligations.SpreadFillsTheRange := by
  intro r lo hi s
  obtain ⟨hsr, hpc, houtside⟩ := setRegs_advance_frame s (spreadLayer r lo hi s) .c
  refine ⟨decode_opcode_operands (i := .spread r lo hi) rfl rfl, _, exec_spread r lo hi s, fun i hin => ?_,
    fun i hout => ?_, hsr, hpc, houtside⟩
  · rw [setRegs_advance_reg, spreadLayer_of_inRange r s hin]
  · rw [setRegs_advance_reg, spreadLayer_of_not_inRange r s (not_le.2 hout)]

theorem layersWithBit_layerRange_length (s : State) (k : Nat) (lo hi : Reg) :
    (layersWithBit s k (layerRange lo hi)).length =
      (allLayers.filter fun i => decide (InRange lo hi i) && (s.reg i).getLsbD k).length := by
  rw [layersWithBit, ((layerRange_perm lo hi).filter _).length_eq, List.filter_filter]
  simp only [Bool.and_comm]

/-- Settles O45: parity does not depend on the order of the layers; one layer and the whole file are the ranges with
one element and with all. -/
theorem gatherXorsTheRange : Obligations.GatherXorsTheRange := by
  intro d lo hi s
  refine ⟨decode_opcode_operands (i := .gather d lo hi) rfl rfl, _, rfl, fun k _ => ?_,
    arithEffect_reduction s d _ .c, ?_, ?_⟩
  · rw [setResult_advance_reg, reduce_xor_zero_getLsbD, layersWithBit_layerRange_length]
  · rintro rfl
    rw [setResult_advance_reg, layerRange_self, reduce_xor_singleton]
  · rintro rfl rfl
    rw [layerRange_whole]
    rfl

end Sys2Proof.Machine
end

section
/-! SUPPORT and PROOFS. The System/IO instructions (46_system_io.md): what `SENSE` takes from the stream or the sensor
slots, and what `ACT` writes to the actuator slots and the log. -/

namespace Sys2Proof.Machine

theorem lowNibble_of_lt {b : Byte} (h : b.toNat < 16) : lowNibble b = ⟨b.toNat, h⟩ :=
  Fin.ext (Nat.mod_eq_of_lt h)

/-! ### `SENSE` (R221) -/

/-- The input stream has a byte for `SENSE` to take. -/
abbrev StreamHasByte (s : State) : Prop :=
  s.instream.attached = true ∧ s.instream.pos < s.instream.bytes.length

/-- The value that the statement gives `E`: an attached stream has been read to its end. -/
def streamAtEnd (s : State) : Bool := s.instream.attached && decide (s.instream.bytes.length ≤ s.instream.pos)

theorem streamAtEnd_of_hasByte {s : State} (h : StreamHasByte s) : streamAtEnd s = false := by
  obtain ⟨-, hpos⟩ := h
  simp [streamAtEnd, hpos]

/-- Without a byte left, the stream is exhausted as soon as it is attached. -/
theorem streamAtEnd_of_not_hasByte {s : State} (h : ¬StreamHasByte s) :
    streamAtEnd s = s.instream.attached := by
  cases hatt : s.instream.attached with
  | false => simp [streamAtEnd, hatt]
  | true => simpa [streamAtEnd, hatt] using h

/-- What `SENSE` leaves when it gives `Rd` the byte `v` and leaves the stream as `stream`; `E` tells whether the stream
was at its end before. -/
def afterSense (s : State) (d : Reg) (v : Byte) (stream : InStream) : State :=
  { ((s.setReg d v).setE (streamAtEnd s)).advance .c with instream := stream }

theorem exec_sense_of_ge {ix : Byte} (d : Reg) (s : State) (h : 16 ≤ ix.toNat) :
    exec (.sense d ix) s = .next (s.raise .invalidSensor (ix.setWidth 32)) := if_pos h

theorem exec_sense_of_hasByte {ix : Byte} (d : Reg) {s : State} (h : ix.toNat < 16) (hs : StreamHasByte s) :
    exec (.sense d ix) s = .next (afterSense s d (s.instream.bytes[s.instream.pos]'hs.2)
      { s.instream with pos := s.instream.pos + 1 }) := by
  rw [List.getElem_eq_getD 0, afterSense, streamAtEnd_of_hasByte hs]
  exact (if_neg (not_le.2 h)).trans (if_pos hs)

theorem exec_sense_of_not_hasByte {ix : Byte} (d : Reg) {s : State} (h : ix.toNat < 16) (hs : ¬StreamHasByte s) :
    exec (.sense d ix) s = .next (afterSense s d (s.sensor.get ⟨ix.toNat, h⟩) s.instream) := by
  rw [← lowNibble_of_lt h, afterSense, streamAtEnd_of_not_hasByte hs]
  refine ((if_neg (not_le.2 h)).trans (if_neg hs)).trans ?_
  cases hatt : s.instream.attached with
  | false => exact if_neg Bool.false_ne_true
  | true => exact if_pos rfl

theorem afterSense_reg_self (s : State) (d : Reg) (v : Byte) (stream : InStream) :
    (afterSense s d v stream).reg d = v := s.setReg_reg_self d v

theorem afterSense_reg_ne (s : State) {d j : Reg} (v : Byte) (stream : InStream) (h : j ≠ d) :
    (afterSense s d v stream).reg j = s.reg j := s.setReg_reg_ne d v h

/-- Settles O46, by whether the stream has a byte left. -/
theorem senseReadsStreamThenSensor : Obligations.SenseReadsStreamThenSensor := by
  intro d ix s
  refine ⟨decode_opcode_operands (i := .sense d ix) rfl rfl, fun hbad => ?_, fun h => ?_⟩
  · rw [exec_sense_of_ge d s hbad]
    exact raisedOnly_raise s _ _
  · by_cases hs : StreamHasByte s
    · refine ⟨_, exec_sense_of_hasByte d h hs, rfl, fun _ => afterSense_reg_ne s _ _, rfl, ?_⟩
      rw [dif_pos hs]
      exact ⟨afterSense_reg_self s d _ _, rfl⟩
    · refine ⟨_, exec_sense_of_not_hasByte d h hs, rfl, fun _ => afterSense_reg_ne s _ _, rfl, ?_⟩
      rw [dif_neg hs]
      exact ⟨afterSense_reg_self s d _ _, rfl⟩

/-! ### `ACT` (R222) -/

theorem exec_act_of_ge {ix : Byte} (r : Reg) (s : State) (h : 16 ≤ ix.toNat) :
    exec (.act ix r) s = .next (s.raise .invalidActuator (ix.setWidth 32)) := if_pos h

theorem exec_act_of_lt {ix : Byte} (r : Reg) (s : State) (h : ix.toNat < 16) :
    exec (.act ix r) s = .next { s with
      actuator := s.actuator.set ix.toNat (s.reg r)
      outlog := s.outlog ++ [⟨⟨ix.toNat, h⟩, s.reg r⟩]
      pc := s.pc + 3 } := by
  refine (if_neg (not_le.2 h)).trans ?_
  simp only [lowNibble_of_lt h]
  rfl

/-- Reading a slot of a file of 16 after one slot was written. -/
theorem get_set_slot (slots : Vector Byte 16) {n : Nat} (h : n < 16) (v : Byte) (j : Reg) :
    (slots.set n v).get j = if j.val = n then v else slots.get j := by
  simp only [Vector.get_eq_getElem, Vector.getElem_set, eq_comm]

/-- Settles O47: the index decides between the fault and the write, after the decoder has accepted the register. -/
theorem actWritesSlotAndLog : Obligations.ActWritesSlotAndLog := by
  intro ix b2 r s
  refine ⟨decode_opcode_operands (i := .act ix r) rfl rfl, fun hb => decode_act_refused ix [] (by omega),
    fun hbad => ?_, fun h => ?_⟩
  · rw [exec_act_of_ge r s hbad]
    exact raisedOnly_raise s _ _
  · exact ⟨_, exec_act_of_lt r s h, rfl, get_set_slot s.actuator h (s.reg r), rfl⟩

end Sys2Proof.Machine
end

section
/-! SUPPORT and PROOFS. Faults (60_exceptions.md R251, R252): said once for every instruction, that it either leaves
the core unfaulted or does nothing but raise a fault, and which faults these are. -/

namespace Sys2Proof.Machine

/-! ### The two ways an executed instruction can end -/

/-- `InvalidPort` is the answer to a host operation; every other kind is one that a step can raise (R251). -/
def FaultKind.RaisedByCore (k : FaultKind) : Prop := k ≠ .invalidPort

theorem FaultKind.RaisedByCore.code_mem {k : FaultKind} (h : k.RaisedByCore) :
    k.code.toNat ∈ [1, 2, 3, 4, 5, 6, 7, 9, 10, 11] := by
  cases k with
  | invalidPort => exact absurd rfl h
  | _ => decide

/-- The outcome is that of an instruction which completed from `s`, or of one which found a fault before its first
write: raising a fault that a step can raise is then all that it did (R252). -/
inductive EndsPrecisely (s : State) : Host.Outcome State Fault Refusal → Prop
  | completes {t : State} (h : t.run ≠ .faulted) : EndsPrecisely s (.next t)
  | faults {k : FaultKind} {info : BitVec 32} (hk : k.RaisedByCore) : EndsPrecisely s (.next (s.raise k info))

/-- What the obligation asks of a step, from the way it ended. -/
theorem EndsPrecisely.raised {s t : State} (h : EndsPrecisely s (.next t)) (ht : t.run = .faulted) :
    t = { s with run := .faulted, fault := t.fault } ∧ t.fault.code.toNat ∈ [1, 2, 3, 4, 5, 6, 7, 9, 10, 11] := by
  cases h with
  | completes hrun => exact absurd ht hrun
  | faults hk => exact ⟨rfl, hk.code_mem⟩

section Endings

variable {s t : State}

theorem EndsPrecisely.of_run_eq (hs : s.run = .running) (ht : t.run = s.run) : EndsPrecisely s (.next t) :=
  .completes (by rw [ht, hs]; exact nofun)

/-- An instruction that makes one check before it writes. -/
theorem EndsPrecisely.ite {c : Prop} [Decidable c] {o o' : Host.Outcome State Fault Refusal}
    (h : c → EndsPrecisely s o) (h' : ¬c → EndsPrecisely s o') : EndsPrecisely s (if c then o else o') := by
  split
  next hc => exact h hc
  next hc => exact h' hc

/-- An instruction whose only check is that of a data access. -/
theorem EndsPrecisely.attempt {α : Type} {r : Except Raised α} {effect : α → State} (hs : s.run = .running)
    (herror : ∀ e, r = .error e → e.kind.RaisedByCore) (hok : ∀ v, r = .ok v → (effect v).run = s.run) :
    EndsPrecisely s (s.attempt r effect) := by
  cases r with
  | ok v => exact .of_run_eq hs (hok v rfl)
  | error e => exact .faults (herror e rfl)

theorem memRead_error_kind {a : Addr} {n : Nat} (e : Raised) (h : s.memRead a n = .error e) :
    e.kind.RaisedByCore := by
  rcases s.memRead_error a n e h with rfl | rfl <;> exact nofun

theorem memWrite_error_kind {a : Addr} {vs : List Byte} (e : Raised) (h : s.memWrite a vs = .error e) :
    e.kind.RaisedByCore := by
  rcases s.memWrite_error a vs e h with rfl | rfl | rfl <;> exact nofun

theorem memWrite_run {a : Addr} {vs : List Byte} (hvs : vs ≠ []) (u : State) (hu : s.memWrite a vs = .ok u) :
    u.run = s.run := by
  rw [(memWrite_frame hvs hu).1]

theorem setRegs_advance_run (g : Reg → Byte) (f : Format) : ((s.setRegs g).advance f).run = s.run := by
  rw [State.advance_run, State.setRegs_run]

theorem jumpIf_run (c : Bool) (target : Addr) : (s.jumpIf c target).run = s.run := by
  cases c <;> rfl

end Endings

/-! ### Every instruction and every step -/

/-- The instructions that can fault are those with a check of their own, the data accesses, and the unsupported
opcodes; `HLT` and `YIELD` leave `RUN` at another value than `FAULTED`, and the rest leave it alone. -/
theorem exec_endsPrecisely {s : State} (hs : s.run = .running) (i : Instr) : EndsPrecisely s (exec i s) := by
  cases i with
  | trans | pipe | lerp | slerp | grad | descent | promote | demote => exact .faults nofun
  | hlt | yield => exact .completes nofun
  | jz | jn | jc | jo => exact .of_run_eq hs (jumpIf_run _ _)
  | loop c target =>
    rw [exec_loop]
    exact .of_run_eq hs rfl
  | call | push | root | act =>
    exact .ite (fun _ => .faults nofun) (fun _ => .of_run_eq hs rfl)
  | ret =>
    rcases s.cs.eq_nil_or_concat' with hempty | ⟨below, fr, htop⟩
    · rw [exec_ret_of_empty hempty]
      exact .faults nofun
    · rw [exec_ret_of_top htop]
      exact .of_run_eq hs rfl
  | pop d =>
    rcases s.vs.eq_nil_or_concat' with hempty | ⟨below, v, htop⟩
    · rw [exec_pop_of_empty d hempty]
      exact .faults nofun
    · rw [exec_pop_of_top d htop]
      exact .of_run_eq hs rfl
  | load => exact .attempt hs memRead_error_kind fun _ _ => rfl
  | lstate => exact .attempt hs memRead_error_kind fun _ _ => setRegs_advance_run _ _
  | store | sstate => exact .attempt hs memWrite_error_kind (memWrite_run (List.cons_ne_nil _ _))
  | sense =>
    exact .ite (fun _ => .faults nofun) fun _ =>
      .ite (fun _ => .of_run_eq hs rfl) fun _ =>
        .ite (fun _ => .of_run_eq hs rfl) (fun _ => .of_run_eq hs rfl)
  | rotl | fold | spread => exact .of_run_eq hs (setRegs_advance_run _ _)
  | _ => exact .of_run_eq hs rfl

theorem raiseDecode_endsPrecisely (s : State) (e : DecodeError) : EndsPrecisely s (.next (s.raiseDecode e)) := by
  obtain ⟨k, info, hraise, hk⟩ := s.raiseDecode_cases e
  rw [hraise]
  refine .faults ?_
  rcases hk with rfl | rfl | rfl <;> exact nofun

theorem step_endsPrecisely {s : State} (hs : s.run = .running) : EndsPrecisely s (step s) := by
  rcases step_cases s _ rfl with ⟨hidle, -⟩ | ⟨-, e, -, hdecode⟩ | ⟨-, i, -, hexec⟩
  · exact absurd hs hidle
  · exact hdecode ▸ raiseDecode_endsPrecisely s e
  · exact hexec ▸ exec_endsPrecisely hs i

/-- Settles O48: a step that did not complete did nothing but raise its fault. -/
theorem faultsArePrecise : Obligations.FaultsArePrecise := by
  intro s t hs h ht
  exact (h ▸ step_endsPrecisely hs).raised ht

end Sys2Proof.Machine
end

section
/-! SUPPORT and PROOFS. Reset, the host operations and the steps between them (70_reset_and_hazards.md): what a step
executes, what each operation of the host writes or refuses, and that the state invariant survives all of them. -/

namespace Sys2Proof.Machine

/-! ### What a step executes (R301, R302) -/

theorem encode_length_le (i : Instr) : (encode i).length ≤ 4 := by
  obtain ⟨f, -, hlen⟩ := formatOf_opcode i
  have hwidth : f.width ≤ 4 := by cases f <;> decide
  rw [encode, List.length_cons, hlen]
  exact hwidth

/-- An encoding that stands at `pc` is the instruction fetched there, whatever follows it. -/
theorem fetchInstr_of_encode {s : State} {i : Instr} (hwf : i.wellFormed = true)
    (h : ∀ (k : Nat) (hk : k < (encode i).length), s.fetchByte (s.pc + BitVec.ofNat 32 k) = some ((encode i)[k])) :
    s.fetchInstr = .ok i := by
  obtain ⟨rest, hwindow⟩ := s.fetchWindow_of_bytes s.pc (encode i) 4 (encode_length_le i) h
  rw [State.fetchInstr, hwindow]
  exact decodeEncodeRoundTrip i rest hwf

/-- Settles O6: a step goes through `fetchInstr` only, and each decode error is raised as one fault. -/
theorem stepRunsDecodedInstruction : Obligations.StepRunsDecodedInstruction := by
  refine ⟨fun s i hrun hwf hbytes => step_of_fetchInstr_ok hrun (fetchInstr_of_encode hwf hbytes),
    fun s i hrun hi => step_of_fetchInstr_ok hrun hi, fun s e hrun he => ?_, fun s => step_of_not_running⟩
  cases e with
  | missing | illegalOpcode | illegalOperand => exact step_raises_of_fetchInstr_error hrun he rfl

theorem step_answers (s : State) : ∃ t, step s = .next t := by
  rcases step_cases s _ rfl with ⟨-, hidle⟩ | ⟨-, e, -, hdecode⟩ | ⟨-, i, -, hexec⟩
  · exact ⟨s, hidle⟩
  · exact ⟨_, hdecode⟩
  · obtain ⟨t, ht, -⟩ := exec_answers i s
    exact ⟨t, hexec.trans ht⟩

theorem hostRun_of_not_running {s : State} (h : s.run ≠ .running) (fuel : Nat) : hostRun fuel s = .next s := by
  cases fuel with
  | zero => rfl
  | succ fuel => exact if_neg h

/-- Settles O50: a fault is a next state, and a core that is not running stays as it is. -/
theorem everyStepAnswersNext : Obligations.EveryStepAnswersNext := by
  refine ⟨step_answers, fun i s => ?_, fun s h => ⟨step_of_not_running h, hostRun_of_not_running h⟩⟩
  obtain ⟨t, ht, -⟩ := exec_answers i s
  exact ⟨t, ht⟩

/-! ### `Reset` (R290) -/

theorem fetchByte_of_empty_code {s : State} (h : s.codeLen = 0) (a : Addr) : s.fetchByte a = none :=
  if_neg fun ⟨_, hlt⟩ => Nat.not_lt_zero _ (h ▸ hlt)

/-- Settles O56: every field is written out by `State.resetWith`, and the empty code has no byte at `pc`. -/
theorem resetClearsEverything : Obligations.ResetClearsEverything := by
  intro s t
  have hslot : ∀ i : Reg, (Vector.replicate 16 (0x00 : Byte)).get i = 0x00 := by
    simp [Vector.get_eq_getElem]
  obtain ⟨-, hfetch, -⟩ := fetchStopsAtFirstMissingByte
  have hstep : RaisedOnly t (step t) .addressOutOfBounds 0 := hfetch t rfl (fetchByte_of_empty_code rfl t.pc)
  exact ⟨fun i => ⟨hslot i, hslot i, hslot i⟩, rfl, rfl, rfl, rfl, rfl, rfl, rfl, rfl, rfl, rfl, fun _ => rfl, rfl, rfl,
    rfl, hstep⟩

/-! ### `SetConfig` (R309) -/

/-- An operation with one check is allowed exactly where the check passes. -/
theorem setsOrRefuses_ite {c : Prop} [Decidable c] (t : State) (e : HostError) :
    SetsOrRefuses (if c then .ok t else .error e) c t :=
  ⟨fun h => if_pos h, fun h => ⟨e, if_neg h⟩⟩

theorem SetsOrRefuses.of_ok {o : Except HostError State} {allowed : Prop} {t u : State}
    (h : SetsOrRefuses o allowed t) (ho : o = .ok u) : allowed ∧ u = t := by
  obtain ⟨hset, hrefuse⟩ := h
  by_cases hc : allowed
  · cases ho.symm.trans (hset hc)
    exact ⟨hc, rfl⟩
  · obtain ⟨e, he⟩ := hrefuse hc
    exact nomatch ho.symm.trans he

section Settings

variable (v : Nat) (s : State)

theorem setConfig_heapCap : SetsOrRefuses (setConfig .heapCap v s) (v ≤ Config.heapCapMax ∧ s.heapLen ≤ v)
    { s with cfg := { s.cfg with heapCap := v } } := setsOrRefuses_ite _ _

/-- The core with room for `v` entries on the value stack. -/
def withVstackCap : State := { s with cfg := { s.cfg with vstackCap := v } }

theorem setConfig_vstackCap : SetsOrRefuses (setConfig .vstackCap v s) (v ≤ Config.stackCapMax ∧ s.vs.length ≤ v)
    (withVstackCap v s) := setsOrRefuses_ite _ _

theorem setConfig_cstackCap : SetsOrRefuses (setConfig .cstackCap v s) (v ≤ Config.stackCapMax ∧ s.cs.length ≤ v)
    { s with cfg := { s.cfg with cstackCap := v } } := setsOrRefuses_ite _ _

theorem setConfig_ttSize : SetsOrRefuses (setConfig .ttSize v s) (v = Config.ttSize) s := setsOrRefuses_ite _ _

/-- The core with `v` ports, those that were added or removed cleared. -/
def withPorts : State :=
  { s with
    cfg := { s.cfg with ioPorts := v }
    mem := s.mem.clear (ioBase + min v s.cfg.ioPorts) (ioBase + max v s.cfg.ioPorts) }

theorem setConfig_ioPorts : SetsOrRefuses (setConfig .ioPorts v s) (v ≤ Config.ioPortsMax) (withPorts v s) :=
  setsOrRefuses_ite _ _

/-- The cleared addresses are those of the ports that exist before or after the change, but not both. -/
theorem withPorts_read (a : Nat) : (withPorts v s).mem.read a =
    if ioBase + min v s.cfg.ioPorts ≤ a ∧ a < ioBase + max v s.cfg.ioPorts then 0 else s.mem.read a :=
  Memory.read_clear _ _ _ _

end Settings

/-! ### `ClearFault` (R304) -/

/-- The fetch depends on the memory and on `CODE_LEN`. -/
theorem fetchWindow_congr {s t : State} (hmem : t.mem = s.mem) (hlen : t.codeLen = s.codeLen) (a : Addr) (n : Nat) :
    t.fetchWindow a n = s.fetchWindow a n := by
  have hbyte (b : Addr) : t.fetchByte b = s.fetchByte b := by simp only [State.fetchByte, hmem, hlen]
  induction n generalizing a with
  | zero => rfl
  | succ n ih =>
    cases hb : s.fetchByte a with
    | none => rw [s.fetchWindow_succ_none a n hb, t.fetchWindow_succ_none a n ((hbyte a).trans hb)]
    | some b => rw [s.fetchWindow_succ_some a n b hb, t.fetchWindow_succ_some a n b ((hbyte a).trans hb), ih]

/-- States that agree in code and `pc` execute the same instruction. -/
theorem step_of_same_fetch {s t : State} {i : Instr} (hrun : t.run = .running) (hpc : t.pc = s.pc)
    (hmem : t.mem = s.mem) (hlen : t.codeLen = s.codeLen) (hi : decode (s.fetchWindow s.pc 4) = .ok i) :
    step t = exec i t := by
  refine step_of_fetchInstr_ok hrun ?_
  rw [State.fetchInstr, hpc, fetchWindow_congr hmem hlen]
  exact hi

theorem hostClearFault_of_faulted {s : State} (h : s.run = .faulted) :
    hostClearFault s = { s with run := .running, fault := ⟨0, 0⟩ } := s.clearFault_of_faulted h

/-- Clearing the fault of a core that ran without one undoes the raise. -/
theorem hostClearFault_undoes_fault {s : State} (hrun : s.run = .running) (hfault : s.fault = ⟨0, 0⟩) (r : FaultRec) :
    hostClearFault { s with run := .faulted, fault := r } = s := by
  rw [hostClearFault_of_faulted rfl, ← hrun, ← hfault]

/-- A `PUSH` that found the stack full succeeds once the capacity is raised and the fault cleared. -/
theorem push_retry_after_setConfig {s t u : State} {r : Reg} {v : Nat} (hrun : s.run = .running)
    (hfault : s.fault = ⟨0, 0⟩) (hi : decode (s.fetchWindow s.pc 4) = .ok (.push r))
    (hfull : s.vs.length = s.cfg.vstackCap) (ht : step s = .next t) (hv : s.cfg.vstackCap < v)
    (hu : setConfig .vstackCap v t = .ok u) :
    t.run = .faulted ∧ step (hostClearFault u) =
      .next { s with cfg := { s.cfg with vstackCap := v }, vs := s.vs ++ [s.reg r], pc := s.pc + 2 } := by
  rw [step_of_fetchInstr_ok hrun hi, exec_push_of_full r hfull] at ht
  cases ht
  obtain ⟨-, rfl⟩ := (setConfig_vstackCap v _).of_ok hu
  have hclear : hostClearFault (withVstackCap v (s.raise .stackOverflow 0)) = withVstackCap v s :=
    hostClearFault_undoes_fault (s := withVstackCap v s) hrun hfault _
  have hstep : step (withVstackCap v s) = exec (.push r) (withVstackCap v s) :=
    step_of_same_fetch (s := s) hrun rfl rfl rfl hi
  have hroom : (withVstackCap v s).vs.length ≠ (withVstackCap v s).cfg.vstackCap := ne_of_lt (hfull.trans_lt hv)
  rw [hclear, hstep]
  exact ⟨rfl, exec_push_of_not_full r hroom⟩

/-- Settles O49: a fault leaves everything but `RUN` and `FAULT`, so clearing these two goes back before it. -/
theorem clearFaultRetriesTheInstruction : Obligations.ClearFaultRetriesTheInstruction := by
  refine ⟨fun s h => ?_, fun s t hrun hfault hstep ht => ?_, fun s t u r v => push_retry_after_setConfig,
    fun s => s.clearFault_of_not_faulted⟩
  · rw [hostClearFault_of_faulted h]
    exact ⟨rfl, fun i => step_of_same_fetch rfl rfl rfl rfl⟩
  · obtain ⟨heq, -⟩ := faultsArePrecise s t hrun hstep ht
    have hclear : hostClearFault t = s := heq ▸ hostClearFault_undoes_fault hrun hfault t.fault
    exact ⟨hclear, hclear.symm ▸ hstep⟩

/-! ### `Load` (R292) -/

/-- Whole heap states are enough for the data exactly when their bytes are. -/
theorem dataStates_le_iff (data : List Byte) (n : Nat) : dataStates data ≤ n ↔ data.length ≤ 16 * n := by
  unfold dataStates; omega

/-- The state that an accepted load leaves. -/
def afterLoad (code data : List Byte) (entry : Addr) (mode : BitVec 16) (s : State) : State :=
  { hostReset s with
    mem := Memory.ofBytes codeBase code ++ Memory.ofBytes heapBase data
    codeLen := code.length
    heapLen := dataStates data
    pc := entry
    mode := mode }

section Load

variable {code data : List Byte} {entry : Addr} {mode : BitVec 16} {s t : State}

theorem hostLoad_of_code_too_long (h : Config.codeMax < code.length) :
    hostLoad code data entry mode s = .error .invalidBytecode := if_pos h

theorem hostLoad_of_data_too_long (hcode : code.length ≤ Config.codeMax) (h : s.cfg.heapCap < dataStates data) :
    hostLoad code data entry mode s = .error .heapOverflow :=
  (if_neg (not_lt.2 hcode)).trans (if_pos h)

theorem hostLoad_of_fits (hcode : code.length ≤ Config.codeMax) (hdata : dataStates data ≤ s.cfg.heapCap) :
    hostLoad code data entry mode s = .ok (afterLoad code data entry mode s) :=
  (if_neg (not_lt.2 hcode)).trans (if_neg (not_lt.2 hdata))

/-- Once, what an accepted load has checked and what it gives. -/
theorem hostLoad_eq_ok (h : hostLoad code data entry mode s = .ok t) :
    code.length ≤ Config.codeMax ∧ dataStates data ≤ s.cfg.heapCap ∧ t = afterLoad code data entry mode s := by
  rcases Nat.lt_or_ge Config.codeMax code.length with hlong | hcode
  · exact nomatch h.symm.trans (hostLoad_of_code_too_long hlong)
  · rcases Nat.lt_or_ge s.cfg.heapCap (dataStates data) with hlong | hdata
    · exact nomatch h.symm.trans (hostLoad_of_data_too_long hcode hlong)
    · cases h.symm.trans (hostLoad_of_fits hcode hdata)
      exact ⟨hcode, hdata, rfl⟩

/-- From its base up, a byte string's memory reads as the byte string padded with `0x00`. -/
theorem read_ofBytes_of_le {base a : Nat} (bs : List Byte) (h : base ≤ a) :
    (Memory.ofBytes base bs).read a = bs.getD (a - base) 0 := by
  rw [Memory.read_ofBytes]
  split
  next => rfl
  next hout => exact (List.getD_eq_default _ _ (by omega)).symm

theorem read_code (a : Nat) : (Memory.ofBytes codeBase code).read a = code.getD a 0 :=
  read_ofBytes_of_le code (Nat.zero_le a)

/-- The code's cells all lie below the data's, so the two parts of an image do not hide each other. -/
theorem afterLoad_read (hcode : code.length ≤ Config.codeMax) (a : Nat) :
    (afterLoad code data entry mode s).mem.read a =
      if a < heapBase then code.getD a 0 else data.getD (a - heapBase) 0 := by
  have hmax : codeBase + Config.codeMax < heapBase := by decide
  refine (Memory.read_append _ _ a).trans ?_
  split
  next hlisted =>
    obtain ⟨x, hx, rfl⟩ := hlisted
    obtain ⟨⟨-, hhi⟩, -⟩ := Memory.mem_ofBytes _ _ x hx
    rw [read_code, if_pos (by omega)]
  next hunlisted =>
    split
    next hlow =>
      have hzero := Memory.read_of_not_listed (Memory.ofBytes codeBase code) a
        fun x hx hxa => hunlisted ⟨x, hx, hxa⟩
      rw [Memory.read_ofBytes, if_neg (by omega), ← read_code, hzero]
    next hhigh => exact read_ofBytes_of_le _ (not_lt.1 hhigh)

/-- An address below `2^28` is its own offset in the Code segment. -/
theorem fetchByte_ofNat {k : Nat} (hk : k < 2 ^ 28) (hlen : k < s.codeLen) :
    s.fetchByte (BitVec.ofNat 32 k) = some (s.mem.read k) := by
  have haddr : (BitVec.ofNat 32 k).toNat = k := BitVec.toNat_ofNat k 32 ▸ Nat.mod_eq_of_lt (by omega)
  rw [State.fetchByte_eq_some, segmentOf_eq_code_iff, offsetOf, haddr]
  exact ⟨⟨by omega, by omega⟩, rfl⟩

theorem afterLoad_fetchByte (hcode : code.length ≤ Config.codeMax) {k : Nat} (hk : k < code.length) :
    (afterLoad code data entry mode s).fetchByte (BitVec.ofNat 32 k) = some code[k] := by
  have hmax : Config.codeMax < heapBase := by decide
  have hbase : heapBase = 2 ^ 28 := rfl
  rw [fetchByte_ofNat (by omega) hk, afterLoad_read hcode, if_pos (by omega), List.getD_eq_getElem _ _ hk]

theorem afterLoad_read_data (hcode : code.length ≤ Config.codeMax) (k : Nat) :
    (afterLoad code data entry mode s).mem.read (heapBase + k) = data.getD k 0 := by
  rw [afterLoad_read hcode, if_neg (by omega), Nat.add_sub_cancel_left]

/-- Outside the code and the states of the data nothing is listed. -/
theorem afterLoad_read_outside (hcode : code.length ≤ Config.codeMax) {a : Nat} (ha : code.length ≤ a)
    (hout : a < heapBase ∨ heapBase + 16 * dataStates data ≤ a) :
    (afterLoad code data entry mode s).mem.read a = 0 := by
  have hdata := (dataStates_le_iff data _).1 le_rfl
  rw [afterLoad_read hcode]
  split
  next => exact List.getD_eq_default _ _ ha
  next hhigh => exact List.getD_eq_default _ _ (by omega)

/-- The ports lie beyond every legal heap. -/
theorem afterLoad_readPort (hcode : code.length ≤ Config.codeMax) (hdata : dataStates data ≤ s.cfg.heapCap)
    (hlegal : s.cfg.heapCap ≤ Config.heapCapMax) {i : Nat} (hi : i < s.cfg.ioPorts) :
    readPort i (afterLoad code data entry mode s) = .ok 0x00 := by
  have hcodeEnd : Config.codeMax < ioBase := by decide
  have hheapEnd : heapBase + 16 * Config.heapCapMax ≤ ioBase := by decide
  have hzero : (afterLoad code data entry mode s).mem.read (ioBase + i) = 0 :=
    afterLoad_read_outside hcode (by omega) (.inr (by omega))
  exact (if_pos hi).trans (congrArg _ hzero)

end Load

/-- Settles O57: within the limits the load gives `afterLoad`, whose bytes are read off its two byte strings. -/
theorem loadInstallsTheImage : Obligations.LoadInstallsTheImage := by
  intro code data entry mode s
  refine ⟨hostLoad_of_code_too_long, fun hcode hlong => ?_, fun hcode hfits => ?_⟩
  · refine hostLoad_of_data_too_long hcode (not_le.1 fun hle => ?_)
    exact not_le.2 hlong ((dataStates_le_iff data _).1 hle)
  · have hdata : dataStates data ≤ s.cfg.heapCap := (dataStates_le_iff data _).2 hfits
    have hstates : data.length ≤ 16 * dataStates data ∧ 16 * dataStates data < data.length + 16 := by
      unfold dataStates; omega
    exact ⟨_, hostLoad_of_fits hcode hdata, fun k hk => afterLoad_fetchByte hcode hk, hstates,
      fun k _ => afterLoad_read_data hcode k, fun a => afterLoad_read_outside hcode,
      fun hlegal i hi => afterLoad_readPort hcode hdata hlegal hi, rfl⟩

/-! ### Ports (R312) -/

theorem readPort_of_lt {i : Nat} {s : State} (h : i < s.cfg.ioPorts) :
    readPort i s = .ok (s.mem.read (ioBase + i)) := if_pos h

theorem readPort_of_ge {i : Nat} {s : State} (h : s.cfg.ioPorts ≤ i) : readPort i s = .error .invalidPort :=
  if_neg (not_lt.2 h)

theorem setsOrRefuses_writePort (i : Nat) (v : Byte) (s : State) :
    SetsOrRefuses (writePort i v s) (i < s.cfg.ioPorts) { s with mem := s.mem.write (ioBase + i) v } :=
  setsOrRefuses_ite _ _

/-- The port that a 16-bit offset in the IoMapped segment names. -/
theorem shortAddress_port (i : BitVec 16) : (shortAddress 15 i).toNat = ioBase + i.toNat := shortAddress_toNat 15 i

theorem exec_load_port {s : State} {i : BitVec 16} (d : Reg) (h : i.toNat < s.cfg.ioPorts) :
    exec (.load 15 d i) s = .next ((s.setReg d (s.mem.read (ioBase + i.toNat))).advance .dm) :=
  exec_load_of_readable d (readable_shortAddress_iff.2 (.inr (.inr ⟨rfl, h⟩)))

/-- A `STORE` to a port is what the host reads there. -/
theorem exec_store_port {s : State} {i : BitVec 16} (r : Reg) (hwf : Memory.wf s.mem) (h : i.toNat < s.cfg.ioPorts) :
    ∃ t, exec (.store 15 r i) s = .next t ∧ readPort i.toNat t = .ok (s.reg r) := by
  obtain ⟨u, hu, -⟩ := memWrite_shortAddress_ok (s.reg r) (.inr ⟨rfl, h⟩)
  have hvs : [s.reg r] ≠ [] := List.cons_ne_nil _ _
  have hcfg : u.cfg = s.cfg := by rw [(memWrite_frame hvs hu).1]
  have hread : u.mem.read (ioBase + i.toNat) = s.reg r := by
    rw [← shortAddress_port]
    exact memWrite_read_stored (j := 0) hwf hvs hu Nat.one_pos
  refine ⟨_, attempt_of_ok s _ hu, ?_⟩
  rw [readPort_of_lt (by rw [State.advance_cfg, hcfg]; exact h), State.advance_mem, hread]

/-- Settles O60: `WritePort`, `ReadPort`, `LOAD` and `STORE` all reach the byte at `0xF000_0000 + i`. -/
theorem portsConnectHostAndProgram : Obligations.PortsConnectHostAndProgram := by
  intro s i d v hwf
  refine ⟨fun hi => ?_, exec_store_port d hwf, fun n hn => ⟨readPort_of_ge hn, if_neg (not_lt.2 hn)⟩⟩
  have hread := Memory.read_write s.mem (ioBase + i.toNat) v hwf
  refine ⟨_, _, if_pos hi, rfl, hread, fun j hj => readPort_of_lt hj, exec_load_port d hi, ?_⟩
  rw [State.advance_reg, State.setReg_reg_self, hread, if_pos rfl]

/-! ### Flags, registers, devices and settings (R303 to R311) -/

/-- The byte view loses no flag. -/
theorem ofByte_toByte (f : SR) : SR.ofByte f.toByte = f := by
  obtain ⟨z, n, o, c, e⟩ := f
  revert z n o c e
  decide

/-- Bits 7 to 5 are not stored (R305). -/
theorem toByte_ofByte (v : Byte) : (SR.ofByte v).toByte = v &&& 0x1F := by
  revert v
  decide

theorem streamExhausted_iff (s : State) : streamExhausted s = true ↔
    s.instream.attached = true ∧ s.instream.pos = s.instream.bytes.length := by
  simp only [streamExhausted, Bool.and_eq_true, beq_iff_eq]

/-- A register index of the machine is one that the host may name. -/
theorem writeReg_effect (s : State) (i : Reg) (v : Byte) : ∃ t, writeReg i.val v s = .ok t ∧
    (∀ j : Reg, t.reg j = if j = i then v else s.reg j) ∧ t = { s with regs := t.regs } :=
  ⟨s.setReg i v, dif_pos i.isLt, s.setReg_reg i v, rfl⟩

theorem writeSensor_effect (s : State) (i : Reg) (v : Byte) : ∃ t, writeSensor i.val v s = .ok t ∧
    (∀ j : Reg, t.sensor.get j = if j = i then v else s.sensor.get j) ∧ t = { s with sensor := t.sensor } := by
  refine ⟨_, dif_pos i.isLt, fun j => ?_, rfl⟩
  simp only [get_set_slot, Fin.ext_iff]

/-- Beyond the sixteen slots every operation on one is refused. -/
theorem slot_operations_refused (s : State) (v : Byte) {n : Nat} (h : 16 ≤ n) :
    (∃ e, readReg n s = .error e) ∧ (∃ e, writeReg n v s = .error e) ∧
    readSensor n s = .error .invalidSensor ∧ writeSensor n v s = .error .invalidSensor ∧
    readActuator n s = .error .invalidActuator :=
  have hn : ¬n < 16 := not_lt.2 h
  ⟨⟨_, dif_neg hn⟩, ⟨_, dif_neg hn⟩, dif_neg hn, dif_neg hn, dif_neg hn⟩

/-- A port of the new configuration reads what it held, or `0x00` if it is new; a removed one is refused. -/
theorem withPorts_readPort (n : Nat) (s : State) (i : Nat) :
    (i < n → i < s.cfg.ioPorts → readPort i (withPorts n s) = readPort i s) ∧
    (i < n → s.cfg.ioPorts ≤ i → readPort i (withPorts n s) = .ok 0x00) ∧
    (n ≤ i → readPort i (withPorts n s) = .error .invalidPort) := by
  refine ⟨fun hnew hold => ?_, fun hnew hadded => ?_, fun hgone => readPort_of_ge hgone⟩
  · rw [readPort_of_lt hold, readPort_of_lt hnew, withPorts_read, if_neg (by omega)]
  · rw [readPort_of_lt hnew, withPorts_read, if_pos (by omega)]

/-- Changing `IO_PORTS` touches no address below the IoMapped segment. -/
theorem withPorts_read_below (n : Nat) (s : State) {a : Nat} (h : a < ioBase) :
    (withPorts n s).mem.read a = s.mem.read a := by
  rw [withPorts_read, if_neg (by omega)]

/-- Settles O58, operation by operation. -/
theorem hostOperationsActAsListed : Obligations.HostOperationsActAsListed := by
  intro s v bytes
  refine ⟨hostResume_of_yielded, hostResume_of_not_yielded, rfl, toByte_ofByte v, rfl, ?_, rfl, rfl, rfl, rfl,
    streamExhausted_iff s, fun i => ?_, fun w => ⟨fun _ => rfl, rfl⟩, fun n => slot_operations_refused s v,
    fun n => ?_, fun name n t _ code data entry mode => ?_⟩
  · rw [writeSR, readSR, ofByte_toByte]
  · exact ⟨dif_pos i.isLt, rfl, dif_pos i.isLt, dif_pos i.isLt, writeReg_effect s i v, writeSensor_effect s i v⟩
  · obtain ⟨hset, hrefuse⟩ := setConfig_ioPorts n s
    exact ⟨setConfig_heapCap n s, setConfig_vstackCap n s, setConfig_cstackCap n s, setConfig_ttSize n s,
      fun hbad => hrefuse (not_le.2 hbad), fun hn => ⟨withPorts n s, hset hn, withPorts_readPort n s,
        fun a => withPorts_read_below n s, rfl⟩⟩
  · refine ⟨hostLoad_of_code_too_long, ?_⟩
    rintro hcode rfl
    exact ⟨_, hostLoad_of_fits hcode (Nat.zero_le _)⟩

/-! ### The state invariant under the host (R290 to R312) -/

section HostInvariant

variable {s t : State}

theorem hostReset_inv (hs : s.Inv) : (hostReset s).Inv := by
  obtain ⟨-, ⟨hlegal, -⟩, -⟩ := hs
  exact resetWith_inv hlegal

/-- A running state without a recorded fault keeps `FAULT` in step with `RUN`. -/
theorem inv_running (hs : s.Inv) : State.Inv { s with run := .running, fault := ⟨0, 0⟩ } := by
  obtain ⟨hmem, hcap, -, hstream⟩ := hs
  exact ⟨hmem, hcap, by simp [State.FaultInv], hstream⟩

/-- Outside `FAULTED` no fault is recorded. -/
theorem fault_eq_zero (hs : s.FaultInv) (h : s.run ≠ .faulted) : s.fault = ⟨0, 0⟩ := by
  obtain ⟨hiff, -, hinfo⟩ := hs
  have hcode : s.fault.code = 0 := by_contra fun hne => h (hiff.2 hne)
  calc s.fault = ⟨s.fault.code, s.fault.info⟩ := rfl
    _ = ⟨0, 0⟩ := by rw [hcode, hinfo hcode]

theorem hostResume_inv (hs : s.Inv) : (hostResume s).Inv := by
  by_cases h : s.run = .yielded
  · have ⟨_, _, hfault, _⟩ := hs
    have hzero : s.fault = ⟨0, 0⟩ := fault_eq_zero hfault (by rw [h]; exact nofun)
    have hresumed : hostResume s = { s with run := .running, fault := ⟨0, 0⟩ } := by
      rw [hostResume_of_yielded h, ← hzero]
    exact hresumed ▸ inv_running hs
  · rwa [hostResume_of_not_yielded h]

theorem hostClearFault_inv (hs : s.Inv) : (hostClearFault s).Inv := by
  by_cases h : s.run = .faulted
  · rw [hostClearFault_of_faulted h]
    exact inv_running hs
  · rwa [hostClearFault, s.clearFault_of_not_faulted h]

theorem attachStream_inv (bytes : List Byte) (hs : s.Inv) : (attachStream bytes s).Inv := by
  obtain ⟨hmem, hcap, hfault, -⟩ := hs
  exact ⟨hmem, hcap, hfault, Nat.zero_le _, nofun⟩

theorem detachStream_inv (hs : s.Inv) : (detachStream s).Inv := by
  obtain ⟨hmem, hcap, hfault, -⟩ := hs
  exact ⟨hmem, hcap, hfault, Nat.zero_le _, fun _ => ⟨rfl, rfl⟩⟩

theorem writeReg_inv {i : Nat} {v : Byte} (h : writeReg i v s = .ok t) (hs : s.Inv) : t.Inv := by
  unfold writeReg at h
  split at h <;> cases h
  exact hs

theorem writeSensor_inv {i : Nat} {v : Byte} (h : writeSensor i v s = .ok t) (hs : s.Inv) : t.Inv := by
  unfold writeSensor at h
  split at h <;> cases h
  exact hs

theorem writePort_inv {i : Nat} {v : Byte} (h : writePort i v s = .ok t) (hs : s.Inv) : t.Inv := by
  obtain ⟨⟨hwf, hlisted⟩, hcap, hfault, hstream⟩ := hs
  obtain ⟨hi, rfl⟩ := (setsOrRefuses_writePort i v s).of_ok h
  refine ⟨⟨Memory.write_wf _ _ _ hwf, fun x hx => ?_⟩, hcap, hfault, hstream⟩
  rcases Memory.mem_write _ _ _ x hx with ⟨rfl, -⟩ | hold
  · exact .inr (.inr ⟨Nat.le_add_right _ _, Nat.add_lt_add_left hi _⟩)
  · exact hlisted x hold

/-- What is left listed after a change of `IO_PORTS` is code, heap, or a port that was kept. -/
theorem withPorts_memInv (n : Nat) (hs : s.MemInv) : (withPorts n s).MemInv := by
  obtain ⟨hwf, hlisted⟩ := hs
  refine ⟨Memory.clear_wf _ _ _ hwf, fun x hx => ?_⟩
  obtain ⟨hold, hkept⟩ := (Memory.mem_clear _ _ _ x).1 hx
  rcases hlisted x hold with hcode | hheap | ⟨hlo, hhi⟩
  · exact .inl hcode
  · exact .inr (.inl hheap)
  · have hport : x.1 < ioBase + n := by omega
    exact .inr (.inr ⟨hlo, hport⟩)

theorem setConfig_inv {name : ConfigName} {n : Nat} (h : setConfig name n s = .ok t) (hs : s.Inv) : t.Inv := by
  obtain ⟨hmem, ⟨⟨hheapCap, hvsCap, hcsCap, hports⟩, hcode, hheap, hvs, hcs⟩, hfault, hstream⟩ := hs
  cases name with
  | heapCap =>
    obtain ⟨⟨hlegal, huse⟩, rfl⟩ := (setConfig_heapCap n s).of_ok h
    exact ⟨hmem, ⟨⟨hlegal, hvsCap, hcsCap, hports⟩, hcode, huse, hvs, hcs⟩, hfault, hstream⟩
  | vstackCap =>
    obtain ⟨⟨hlegal, huse⟩, rfl⟩ := (setConfig_vstackCap n s).of_ok h
    exact ⟨hmem, ⟨⟨hheapCap, hlegal, hcsCap, hports⟩, hcode, hheap, huse, hcs⟩, hfault, hstream⟩
  | cstackCap =>
    obtain ⟨⟨hlegal, huse⟩, rfl⟩ := (setConfig_cstackCap n s).of_ok h
    exact ⟨hmem, ⟨⟨hheapCap, hvsCap, hlegal, hports⟩, hcode, hheap, hvs, huse⟩, hfault, hstream⟩
  | ioPorts =>
    obtain ⟨hlegal, rfl⟩ := (setConfig_ioPorts n s).of_ok h
    exact ⟨withPorts_memInv n hmem, ⟨⟨hheapCap, hvsCap, hcsCap, hlegal⟩, hcode, hheap, hvs, hcs⟩, hfault, hstream⟩
  | ttSize =>
    obtain ⟨-, rfl⟩ := (setConfig_ttSize n s).of_ok h
    exact ⟨hmem, ⟨⟨hheapCap, hvsCap, hcsCap, hports⟩, hcode, hheap, hvs, hcs⟩, hfault, hstream⟩

/-- `Run` is steps, each of which keeps the invariant. -/
theorem hostRun_inv (fuel : Nat) (h : hostRun fuel s = .next t) (hs : s.Inv) : t.Inv := by
  induction fuel generalizing s with
  | zero =>
    cases h
    exact hs
  | succ fuel ih =>
    obtain ⟨u, hu⟩ := step_answers s
    simp only [hostRun, hu] at h
    split at h
    next => exact ih h (stepKeepsTheInvariant s u hs hu)
    next =>
      cases h
      exact hs

/-- An image lists its code and the states of its data, in this order. -/
theorem afterLoad_memInv {code data : List Byte} (entry : Addr) (mode : BitVec 16)
    (hcode : code.length ≤ Config.codeMax) : (afterLoad code data entry mode s).MemInv := by
  have hmax : Config.codeMax < heapBase := by decide
  have hbase : codeBase = 0 := rfl
  have hdata := (dataStates_le_iff data _).1 le_rfl
  refine ⟨Memory.append_wf _ _ (Memory.ofBytes_wf _ _) (Memory.ofBytes_wf _ _) fun x hx y hy => ?_, fun x hx => ?_⟩
  · obtain ⟨⟨-, hx⟩, -⟩ := Memory.mem_ofBytes _ _ x hx
    obtain ⟨⟨hy, -⟩, -⟩ := Memory.mem_ofBytes _ _ y hy
    omega
  · rcases List.mem_append.1 hx with hx | hx
    · obtain ⟨⟨-, hhi⟩, -⟩ := Memory.mem_ofBytes _ _ x hx
      have hlt : x.1 < code.length := by omega
      exact .inl hlt
    · obtain ⟨⟨hlo, hhi⟩, -⟩ := Memory.mem_ofBytes _ _ x hx
      have hlt : x.1 < heapBase + 16 * dataStates data := by omega
      exact .inr (.inl ⟨hlo, hlt⟩)

theorem hostLoad_inv {code data : List Byte} {entry : Addr} {mode : BitVec 16}
    (h : hostLoad code data entry mode s = .ok t) (hs : s.Inv) : t.Inv := by
  obtain ⟨hcode, hdata, rfl⟩ := hostLoad_eq_ok h
  obtain ⟨-, ⟨hlegal, -, -, hvs, hcs⟩, hfault, hstream⟩ := hostReset_inv hs
  exact ⟨afterLoad_memInv entry mode hcode, ⟨hlegal, hcode, hdata, hvs, hcs⟩, hfault, hstream⟩

end HostInvariant

/-- Settles O59, operation by operation; those that write only registers, flags or the log touch no part of the
invariant. -/
theorem hostOperationsKeepTheInvariant : Obligations.HostOperationsKeepTheInvariant := fun _ hs =>
  ⟨hostReset_inv hs, hostResume_inv hs, hostClearFault_inv hs, hs, detachStream_inv hs,
    fun bytes => attachStream_inv bytes hs, fun _ => hs, fun _ => hs, fun _ _ _ h => writeReg_inv h hs,
    fun _ _ _ h => writeSensor_inv h hs, fun _ _ _ h => writePort_inv h hs, fun _ _ _ h => setConfig_inv h hs,
    fun fuel _ h => hostRun_inv fuel h hs, fun _ _ _ _ _ h => hostLoad_inv h hs⟩

end Sys2Proof.Machine
end
